-- ==== Sys2Proof/Word.lean ====
section
/-! DEFINITION. The word, byte and register-number types of the Deep16 core (`00_scope.md` R5, R9). -/

namespace Sys2Proof

/-- A word: 16 bits, bit 0 the least significant (`00_scope.md` R5, R9). -/
abbrev Word := BitVec 16

/-- Half of a word as a byte-oriented host stores it; the machine itself has no bytes (`20_memory.md` R45). -/
abbrev Byte := BitVec 8

/-- A general register number, 0 to 15 (`10_state.md` R10, `30_encoding.md` R64). -/
abbrev Reg := Fin 16

/-- Register 15 is the program counter (`10_state.md` R13). -/
abbrev Reg.pc : Reg := 15

/-- Register 14, alias LR (`10_state.md` R11). -/
abbrev Reg.lr : Reg := 14

/-- Register 13, alias SP (`10_state.md` R11). -/
abbrev Reg.sp : Reg := 13

/-- Register 12, alias FP (`10_state.md` R11). -/
abbrev Reg.fp : Reg := 12

end Sys2Proof
end

