-- ==== Sys2Proof/Config.lean ====
section
/-! DEFINITION. The parameters the spec leaves to the model (`00_scope.md` R6): `SWI_VECTOR`, `FLAG_BASE_H`,
`HOST_BYTE_ORDER`, `MEM_INIT`. -/

namespace Sys2Proof.Config

/-- The two values of the parameter `HOST_BYTE_ORDER` (`00_scope.md` R6). -/
inductive ByteOrder where
  | little
  | big
deriving DecidableEq, Repr

/-- The arguments of the model that are fixed for a run (`00_scope.md` R6, `10_state.md` R26). They stand in
`State` so that every statement about a state holds for every value of them (log 3). -/
structure Params where
  /-- `SWI_VECTOR`: where the software interrupt continues (`46_system.md` R183). -/
  swiVector : Word
  /-- `FLAG_BASE_H`: the PSW bit that index 0 of the high flag group names (`45_flag.md` R160). -/
  flagBaseH : Fin 16
  /-- `HOST_BYTE_ORDER`: read only where a word is laid out as two bytes (`20_memory.md` R45). -/
  hostByteOrder : ByteOrder
deriving DecidableEq, Repr

/-- The default values of `00_scope.md` R6. DESIGN CHOICE: `HOST_BYTE_ORDER` has no default in the spec and
is little here; safe, since no operation shows it (log 2). -/
def defaults : Params where
  swiVector := 0x0000
  flagBaseH := 4
  hostByteOrder := .little

/-- `MEM_INIT`: the word each address holds at the first reset (`00_scope.md` R6). A FREE VALUE, with no body: the
spec wants it arbitrary and not zero (`70_reset_and_hazards.md` R232), so what is proved of it holds for every
content (log 1). -/
opaque memInit : Word → Word

end Sys2Proof.Config
end

