-- ==== Sys2Proof/Syntax.lean ====
section
/-! DEFINITION. The instructions of the Deep16 core: the closed list of `30_encoding.md` R66. Operands are
the fields of R65 with the widths of R74, so every value of every field is legal (R76). -/

namespace Sys2Proof

/-- One constructor per instruction row of the opcode table; the 17 UNDEF rows, which are one pseudo
instruction written as mask ranges (R67, R76), share the constructor `undef` (log 6). -/
inductive Instr where
  /-- `LDI imm13` (R195). -/
  | ldi (imm13 : BitVec 13)
  /-- `LD Rd, Rb, off5` (R131). -/
  | ld (rd rb : Reg) (off5 : BitVec 5)
  /-- `ST Rd, Rb, off5` (R132). -/
  | st (rd rb : Reg) (off5 : BitVec 5)
  /-- `ADD Rd, Rs` (R103, m = 0). -/
  | addReg (rd rs : Reg)
  /-- `ADD Rd, imm4` (R103, m = 1). -/
  | addImm (rd : Reg) (imm4 : BitVec 4)
  /-- `SUB Rd, Rs` (R104, m = 0). -/
  | subReg (rd rs : Reg)
  /-- `SUB Rd, imm4` (R104, m = 1). -/
  | subImm (rd : Reg) (imm4 : BitVec 4)
  /-- `AND Rd, Rs` (R105, m = 0). -/
  | andReg (rd rs : Reg)
  /-- `AND Rd, imm4` (R105, m = 1). -/
  | andImm (rd : Reg) (imm4 : BitVec 4)
  /-- `OR Rd, Rs` (R106, m = 0). -/
  | orReg (rd rs : Reg)
  /-- `OR Rd, imm4` (R106, m = 1). -/
  | orImm (rd : Reg) (imm4 : BitVec 4)
  /-- `XOR Rd, Rs` (R107, m = 0). -/
  | xorReg (rd rs : Reg)
  /-- `XOR Rd, imm4` (R107, m = 1). -/
  | xorImm (rd : Reg) (imm4 : BitVec 4)
  /-- `SL Rd, cnt` (R123). -/
  | sl (rd : Reg) (cnt : Fin 16)
  /-- `SR Rd, cnt` (R124). -/
  | sr (rd : Reg) (cnt : Fin 16)
  /-- `SRA Rd, cnt` (R125). -/
  | sra (rd : Reg) (cnt : Fin 16)
  /-- `ROR Rd, cnt` (R126). -/
  | ror (rd : Reg) (cnt : Fin 16)
  /-- `JZ` (R142). -/
  | jz (off9 : BitVec 9)
  /-- `JNZ` (R143). -/
  | jnz (off9 : BitVec 9)
  /-- `JC` (R144). -/
  | jc (off9 : BitVec 9)
  /-- `JNC` (R145). -/
  | jnc (off9 : BitVec 9)
  /-- `JN` (R146). -/
  | jn (off9 : BitVec 9)
  /-- `JNN` (R147). -/
  | jnn (off9 : BitVec 9)
  /-- `JO` (R148). -/
  | jo (off9 : BitVec 9)
  /-- `JNO` (R149). -/
  | jno (off9 : BitVec 9)
  /-- `MOV Rd, Rs, imm2` (R91). -/
  | mov (rd rs : Reg) (imm2 : BitVec 2)
  /-- `LSI Rd, imm5` (R92). -/
  | lsi (rd : Reg) (imm5 : BitVec 5)
  /-- `SET idx` (R162). -/
  | set (idx : Fin 16)
  /-- `CLR idx` (R163). -/
  | clr (idx : Fin 16)
  /-- `SET2 idx` (R164). -/
  | set2 (idx : Fin 16)
  /-- `CLR2 idx` (R165). -/
  | clr2 (idx : Fin 16)
  /-- `NOP` (R181). -/
  | nop
  /-- `HALT`, word `0xFFF1` (R182). -/
  | halt
  /-- `SWI` (R183). -/
  | swi
  /-- `RETI` (R184). -/
  | reti
  /-- The all-ones HALT, word `0xFFFF` (R185). -/
  | haltOnes
  /-- `UNDEF`, an unassigned word, which it carries (R62, R76, R186). -/
  | undef (word : Word)
deriving DecidableEq, Repr

end Sys2Proof
end

