-- ==== Sys2Proof/WellFormed.lean ====
section
/-! DEFINITION. Which terms of `Instr` are instructions. Every field value of an assigned format is legal
(`30_encoding.md` R76), so the types of the operands leave one thing to check: that the word an `undef`
carries is one of the unassigned words. -/

namespace Sys2Proof

/-- The unassigned words, range by range as `30_encoding.md` R76 lists them. -/
def isUnassigned (w : Word) : Bool :=
  let n := w.toNat
  decide (0x2000 ≤ n ∧ n ≤ 0x7FFF) || decide (0xCA00 ≤ n ∧ n ≤ 0xCFFF) ||
  decide (0xD400 ≤ n ∧ n ≤ 0xDFFF) || decide (0xF000 ≤ n ∧ n ≤ 0xF7FF) ||
  decide (0xFE40 ≤ n ∧ n ≤ 0xFFEF) || decide (0xFFF4 ≤ n ∧ n ≤ 0xFFFE)

/-- A term is well formed when it is an assigned instruction, or an `undef` of an unassigned word. -/
def Instr.wf : Instr → Bool
  | .undef w => isUnassigned w
  | .ldi _ | .ld _ _ _ | .st _ _ _ => true
  | .addReg _ _ | .addImm _ _ | .subReg _ _ | .subImm _ _ | .andReg _ _ | .andImm _ _ => true
  | .orReg _ _ | .orImm _ _ | .xorReg _ _ | .xorImm _ _ => true
  | .sl _ _ | .sr _ _ | .sra _ _ | .ror _ _ => true
  | .jz _ | .jnz _ | .jc _ | .jnc _ | .jn _ | .jnn _ | .jo _ | .jno _ => true
  | .mov _ _ _ | .lsi _ _ | .set _ | .clr _ | .set2 _ | .clr2 _ => true
  | .nop | .halt | .swi | .reti | .haltOnes => true

end Sys2Proof
end

