-- ==== Sys2Proof/Decode.lean ====
section
/-! DEFINITION. The instruction codec: the decoder (`30_encoding.md` R60 to R76), then the encoder written
from the same formats (R65), then the opcode map as a table of mask rows (R66). -/

namespace Sys2Proof

/-- A 4-bit register or count field whose lowest bit is `lo` (R64). -/
def nibbleField (w : Word) (lo : Nat) : Fin 16 := (w.extractLsb' lo 4).toFin

/-- Format `SY`: the system operation `sop` is bits [2:0] (R73). -/
def decodeSystem (w : Word) : Instr :=
  match (w.extractLsb' 0 3).toNat with
  | 0 => .nop
  | 1 => .halt
  | 2 => .swi
  | 3 => .reti
  | _ => .undef w

/-- Format `F`: `g` is bit 5 and `a` bit 4 (R72). -/
def decodeFlag (w : Word) : Instr :=
  match (w.extractLsb' 4 2).toNat with
  | 0 => .set (nibbleField w 0)
  | 1 => .clr (nibbleField w 0)
  | 2 => .set2 (nibbleField w 0)
  | _ => .clr2 (nibbleField w 0)

/-- Format `SH`: the type `ty` is bits [9:8] (R69). -/
def decodeShift (w : Word) : Instr :=
  match (w.extractLsb' 8 2).toNat with
  | 0 => .sl (nibbleField w 4) (nibbleField w 0)
  | 1 => .sr (nibbleField w 4) (nibbleField w 0)
  | 2 => .sra (nibbleField w 4) (nibbleField w 0)
  | _ => .ror (nibbleField w 4) (nibbleField w 0)

/-- Format `A`: `op` is bits [11:9] and the mode bit `m` is bit 4 (R68); `op` 5 to 7 is unassigned. -/
def decodeAlu (w : Word) : Instr :=
  let rd := nibbleField w 5
  let rs := nibbleField w 0
  let imm := w.extractLsb' 0 4
  match (w.extractLsb' 9 3).toNat with
  | 0 => if w.getLsbD 4 then .addImm rd imm else .addReg rd rs
  | 1 => if w.getLsbD 4 then .subImm rd imm else .subReg rd rs
  | 2 => if w.getLsbD 4 then .andImm rd imm else .andReg rd rs
  | 3 => if w.getLsbD 4 then .orImm rd imm else .orReg rd rs
  | 4 => if w.getLsbD 4 then .xorImm rd imm else .xorReg rd rs
  | _ => .undef w

/-- Format `B`: the condition `cc` is bits [11:9] (R70). -/
def decodeBranch (w : Word) : Instr :=
  let off := w.extractLsb' 0 9
  match (w.extractLsb' 9 3).toNat with
  | 0 => .jz off
  | 1 => .jnz off
  | 2 => .jc off
  | 3 => .jnc off
  | 4 => .jn off
  | 5 => .jnn off
  | 6 => .jo off
  | _ => .jno off

/-- Format `M`: the direction `t` is bit 13, 0 load and 1 store (R71). -/
def decodeMemory (w : Word) : Instr :=
  if w.getLsbD 13 then .st (nibbleField w 9) (nibbleField w 5) (w.extractLsb' 0 5)
  else .ld (nibbleField w 9) (nibbleField w 5) (w.extractLsb' 0 5)

/-- The decoder: a total function of the word alone (R61, R62), testing prefixes longest first (R67). A word
no row matches decodes to `undef`. -/
def decode (w : Word) : Instr :=
  if w = 0xFFFF then .haltOnes
  else if w.extractLsb' 3 13 = 0b1111111111110 then decodeSystem w
  else if w.extractLsb' 6 10 = 0b1111111000 then decodeFlag w
  else if w.extractLsb' 9 7 = 0b1111110 then .lsi (nibbleField w 5) (w.extractLsb' 0 5)
  else if w.extractLsb' 10 6 = 0b111110 then
    .mov (nibbleField w 6) (nibbleField w 2) (w.extractLsb' 0 2)
  else if w.extractLsb' 10 6 = 0b110100 then decodeShift w
  else if w.extractLsb' 12 4 = 0b1100 then decodeAlu w
  else if w.extractLsb' 12 4 = 0b1110 then decodeBranch w
  else if w.extractLsb' 13 3 = 0b000 then .ldi (w.extractLsb' 0 13)
  else if w.extractLsb' 14 2 = 0b10 then decodeMemory w
  else .undef w

/-! Words as a byte-oriented host stores them (`20_memory.md` R45). -/

/-- The word of which a host stores `first` at the lower byte address and `second` at the higher. -/
def wordOfBytes (o : Config.ByteOrder) (first second : Byte) : Word :=
  match o with
  | .little => second.setWidth 16 <<< 8 ||| first.setWidth 16
  | .big => first.setWidth 16 <<< 8 ||| second.setWidth 16

/-- The byte of a word that a host stores at the lower byte address. -/
def firstByte (o : Config.ByteOrder) (w : Word) : Byte :=
  match o with
  | .little => w.extractLsb' 0 8
  | .big => w.extractLsb' 8 8

/-- The byte of a word that a host stores at the higher byte address. -/
def secondByte (o : Config.ByteOrder) (w : Word) : Byte :=
  match o with
  | .little => w.extractLsb' 8 8
  | .big => w.extractLsb' 0 8

/-- Why a byte string is no instruction: fewer than the two bytes of a word (R60). Every word that is there
decodes (R62). -/
inductive DecodeReject where
  /-- Raised by `decodeBytes` on fewer than two bytes; safe, it only stops. -/
  | truncated
deriving DecidableEq, Repr

/-- The first instruction of a host's byte string, and the bytes after it. -/
def decodeBytes (o : Config.ByteOrder) : List Byte → Except DecodeReject (Instr × List Byte)
  | first :: second :: rest => .ok (decode (wordOfBytes o first second), rest)
  | _ => .error .truncated

/-- The instruction the decoder reads from an instruction whose bits, numbered as the opcode table numbers
them, are `w`: one word, laid out as two bytes (log 11). -/
def decodeTableWord (nbits w : Nat) : Option Instr :=
  let word : Word := BitVec.ofNat 16 (w % 2 ^ nbits)
  let o := Config.defaults.hostByteOrder
  if nbits ≤ 16 then
    match decodeBytes o [firstByte o word, secondByte o word] with
    | .ok (i, _) => some i
    | .error _ => none
  else none

/-! The encoder. -/

/-- A field in its place: its lowest bit at bit `lo` of the word (R65). -/
def place {n : Nat} (lo : Nat) (f : BitVec n) : Word := f.setWidth 16 <<< lo

/-- A register number, count or index as a 4-bit field in its place (R64). -/
def placeNibble (lo : Nat) (r : Fin 16) : Word := place lo (BitVec.ofFin r : BitVec 4)

/-- Format `I13` (R65): `imm13` itself. -/
def encodeI13 (imm13 : BitVec 13) : Word := place 0 imm13

/-- Format `M` (R65): `fixed | Rd<<9 | Rb<<5 | off5`, with the direction in `fixed` (R71). -/
def encodeM (fixed : Word) (rd rb : Reg) (off5 : BitVec 5) : Word :=
  fixed ||| placeNibble 9 rd ||| placeNibble 5 rb ||| place 0 off5

/-- Format `A` with m = 0 (R65): `fixed | Rd<<5 | Rs`, with the operation in `fixed` (R68). -/
def encodeAReg (fixed : Word) (rd rs : Reg) : Word := fixed ||| placeNibble 5 rd ||| placeNibble 0 rs

/-- Format `A` with m = 1 (R65): `fixed | Rd<<5 | imm4`, with the operation and m in `fixed` (R68). -/
def encodeAImm (fixed : Word) (rd : Reg) (imm4 : BitVec 4) : Word :=
  fixed ||| placeNibble 5 rd ||| place 0 imm4

/-- Format `SH` (R65): `fixed | Rd<<4 | cnt`, with the type in `fixed` (R69). -/
def encodeSH (fixed : Word) (rd : Reg) (cnt : Fin 16) : Word := fixed ||| placeNibble 4 rd ||| placeNibble 0 cnt

/-- Format `B` (R65): `fixed | off9`, with the condition in `fixed` (R70). -/
def encodeB (fixed : Word) (off9 : BitVec 9) : Word := fixed ||| place 0 off9

/-- Format `MV` (R65): `0xF800 | Rd<<6 | Rs<<2 | imm2`. -/
def encodeMV (rd rs : Reg) (imm2 : BitVec 2) : Word :=
  0xF800 ||| placeNibble 6 rd ||| placeNibble 2 rs ||| place 0 imm2

/-- Format `LS` (R65): `0xFC00 | Rd<<5 | imm5`. -/
def encodeLS (rd : Reg) (imm5 : BitVec 5) : Word := 0xFC00 ||| placeNibble 5 rd ||| place 0 imm5

/-- Format `F` (R65): `fixed | idx`, with group and action in `fixed` (R72). -/
def encodeF (fixed : Word) (idx : Fin 16) : Word := fixed ||| placeNibble 0 idx

/-- The word of an instruction: its operands in the fields of R65 over the fixed bits of R66 (R78). -/
def encode : Instr → Word
  | .ldi imm13 => encodeI13 imm13
  | .ld rd rb off5 => encodeM 0x8000 rd rb off5
  | .st rd rb off5 => encodeM 0xA000 rd rb off5
  | .addReg rd rs => encodeAReg 0xC000 rd rs
  | .addImm rd imm4 => encodeAImm 0xC010 rd imm4
  | .subReg rd rs => encodeAReg 0xC200 rd rs
  | .subImm rd imm4 => encodeAImm 0xC210 rd imm4
  | .andReg rd rs => encodeAReg 0xC400 rd rs
  | .andImm rd imm4 => encodeAImm 0xC410 rd imm4
  | .orReg rd rs => encodeAReg 0xC600 rd rs
  | .orImm rd imm4 => encodeAImm 0xC610 rd imm4
  | .xorReg rd rs => encodeAReg 0xC800 rd rs
  | .xorImm rd imm4 => encodeAImm 0xC810 rd imm4
  | .sl rd cnt => encodeSH 0xD000 rd cnt
  | .sr rd cnt => encodeSH 0xD100 rd cnt
  | .sra rd cnt => encodeSH 0xD200 rd cnt
  | .ror rd cnt => encodeSH 0xD300 rd cnt
  | .jz off9 => encodeB 0xE000 off9
  | .jnz off9 => encodeB 0xE200 off9
  | .jc off9 => encodeB 0xE400 off9
  | .jnc off9 => encodeB 0xE600 off9
  | .jn off9 => encodeB 0xE800 off9
  | .jnn off9 => encodeB 0xEA00 off9
  | .jo off9 => encodeB 0xEC00 off9
  | .jno off9 => encodeB 0xEE00 off9
  | .mov rd rs imm2 => encodeMV rd rs imm2
  | .lsi rd imm5 => encodeLS rd imm5
  | .set idx => encodeF 0xFE00 idx
  | .clr idx => encodeF 0xFE10 idx
  | .set2 idx => encodeF 0xFE20 idx
  | .clr2 idx => encodeF 0xFE30 idx
  | .nop => 0xFFF0
  | .halt => 0xFFF1
  | .swi => 0xFFF2
  | .reti => 0xFFF3
  | .haltOnes => 0xFFFF
  | .undef w => w

/-! The opcode map of R66, with the UNDEF ranges of R76 as the mask rows of `opcode_table.json`. -/

/-- One row of the opcode map: a word `w` belongs to it when `w &&& mask = pattern`. -/
structure OpcodeRow where
  /-- The row's mnemonic in `opcode_table.json`. -/
  mnemonic : String
  /-- The value of the fixed bits, `match` in the table. -/
  pattern : Word
  /-- The fixed bits. -/
  mask : Word
deriving DecidableEq, Repr

/-- Does the word belong to the row (R66)? -/
def OpcodeRow.matches (r : OpcodeRow) (w : Word) : Bool := w &&& r.mask == r.pattern

/-- The rows of the large-immediate, memory, ALU and shift families. -/
def opcodeRowsData : List OpcodeRow :=
  [ ⟨"LDI", 0x0000, 0xE000⟩, ⟨"LD", 0x8000, 0xE000⟩, ⟨"ST", 0xA000, 0xE000⟩,
    ⟨"ADD", 0xC000, 0xFE10⟩, ⟨"ADD", 0xC010, 0xFE10⟩, ⟨"SUB", 0xC200, 0xFE10⟩, ⟨"SUB", 0xC210, 0xFE10⟩,
    ⟨"AND", 0xC400, 0xFE10⟩, ⟨"AND", 0xC410, 0xFE10⟩, ⟨"OR", 0xC600, 0xFE10⟩, ⟨"OR", 0xC610, 0xFE10⟩,
    ⟨"XOR", 0xC800, 0xFE10⟩, ⟨"XOR", 0xC810, 0xFE10⟩,
    ⟨"SL", 0xD000, 0xFF00⟩, ⟨"SR", 0xD100, 0xFF00⟩, ⟨"SRA", 0xD200, 0xFF00⟩, ⟨"ROR", 0xD300, 0xFF00⟩ ]

/-- The rows of the branch, move, flag and system families. -/
def opcodeRowsControl : List OpcodeRow :=
  [ ⟨"JZ", 0xE000, 0xFE00⟩, ⟨"JNZ", 0xE200, 0xFE00⟩, ⟨"JC", 0xE400, 0xFE00⟩, ⟨"JNC", 0xE600, 0xFE00⟩,
    ⟨"JN", 0xE800, 0xFE00⟩, ⟨"JNN", 0xEA00, 0xFE00⟩, ⟨"JO", 0xEC00, 0xFE00⟩, ⟨"JNO", 0xEE00, 0xFE00⟩,
    ⟨"MOV", 0xF800, 0xFC00⟩, ⟨"LSI", 0xFC00, 0xFE00⟩,
    ⟨"SET", 0xFE00, 0xFFF0⟩, ⟨"CLR", 0xFE10, 0xFFF0⟩, ⟨"SET2", 0xFE20, 0xFFF0⟩, ⟨"CLR2", 0xFE30, 0xFFF0⟩,
    ⟨"NOP", 0xFFF0, 0xFFFF⟩, ⟨"HALT", 0xFFF1, 0xFFFF⟩, ⟨"SWI", 0xFFF2, 0xFFFF⟩, ⟨"RETI", 0xFFF3, 0xFFFF⟩,
    ⟨"HALT", 0xFFFF, 0xFFFF⟩ ]

/-- The rows of the unassigned words (R76). -/
def opcodeRowsUndef : List OpcodeRow :=
  [ ⟨"UNDEF", 0x2000, 0xE000⟩, ⟨"UNDEF", 0x4000, 0xC000⟩, ⟨"UNDEF", 0xCA00, 0xFE00⟩,
    ⟨"UNDEF", 0xCC00, 0xFC00⟩, ⟨"UNDEF", 0xD400, 0xFC00⟩, ⟨"UNDEF", 0xD800, 0xF800⟩,
    ⟨"UNDEF", 0xF000, 0xF800⟩, ⟨"UNDEF", 0xFE40, 0xFFC0⟩, ⟨"UNDEF", 0xFE80, 0xFF80⟩,
    ⟨"UNDEF", 0xFF00, 0xFF80⟩, ⟨"UNDEF", 0xFF80, 0xFFC0⟩, ⟨"UNDEF", 0xFFC0, 0xFFE0⟩,
    ⟨"UNDEF", 0xFFE0, 0xFFF0⟩, ⟨"UNDEF", 0xFFF4, 0xFFFC⟩, ⟨"UNDEF", 0xFFF8, 0xFFFC⟩,
    ⟨"UNDEF", 0xFFFC, 0xFFFE⟩, ⟨"UNDEF", 0xFFFE, 0xFFFF⟩ ]

/-- The whole map: 53 rows that partition the 65536 words (R67). -/
def opcodeTable : List OpcodeRow := opcodeRowsData ++ opcodeRowsControl ++ opcodeRowsUndef

/-- The mnemonic of an instruction (R66, R84); both HALT words print as `HALT` (R85). -/
def Instr.mnemonic : Instr → String
  | .ldi _ => "LDI"
  | .ld _ _ _ => "LD"
  | .st _ _ _ => "ST"
  | .addReg _ _ | .addImm _ _ => "ADD"
  | .subReg _ _ | .subImm _ _ => "SUB"
  | .andReg _ _ | .andImm _ _ => "AND"
  | .orReg _ _ | .orImm _ _ => "OR"
  | .xorReg _ _ | .xorImm _ _ => "XOR"
  | .sl _ _ => "SL"
  | .sr _ _ => "SR"
  | .sra _ _ => "SRA"
  | .ror _ _ => "ROR"
  | .jz _ => "JZ"
  | .jnz _ => "JNZ"
  | .jc _ => "JC"
  | .jnc _ => "JNC"
  | .jn _ => "JN"
  | .jnn _ => "JNN"
  | .jo _ => "JO"
  | .jno _ => "JNO"
  | .mov _ _ _ => "MOV"
  | .lsi _ _ => "LSI"
  | .set _ => "SET"
  | .clr _ => "CLR"
  | .set2 _ => "SET2"
  | .clr2 _ => "CLR2"
  | .nop => "NOP"
  | .halt | .haltOnes => "HALT"
  | .swi => "SWI"
  | .reti => "RETI"
  | .undef _ => "UNDEF"

end Sys2Proof
end

