-- ==== Sys2Proof/Machine/State.lean ====
section
/-! DEFINITION. The state of the Deep16 core (`10_state.md`), the reasons a step can stop, and reset. -/

namespace Sys2Proof.Machine

/-- Memory as a list of the bytes that have been written or loaded, by rising byte address; every other byte is
still that of `MEM_INIT` (`Config.memInit`; log 1, log 2). Word address `a` occupies the byte addresses `2 a` and
`2 a + 1`; the machine sees words only (`20_memory.md` R40, R45). -/
abbrev Memory := List Host.Cell

/-- The whole state of the core, `10_state.md` R10 to R27, and the model's own field `params`. -/
structure State where
  /-- The sixteen general registers (R10); 12 to 15 are FP, SP, LR and PC (R11, R13). -/
  x : Vector Word 16
  /-- The program status word (R17). -/
  psw : Word
  /-- Segment register CS (R22). -/
  cs : Word
  /-- Segment register DS (R22), not the PSW bit of that name. -/
  ds : Word
  /-- Segment register SS (R22). -/
  ss : Word
  /-- Segment register ES (R22). -/
  es : Word
  /-- Shadow register PSW' (R23). -/
  pswShadow : Word
  /-- Shadow register PC' (R23). -/
  pcShadow : Word
  /-- Shadow register CS' (R23). -/
  csShadow : Word
  /-- The running flag (R24). -/
  running : Bool
  /-- The memory (R25). -/
  mem : Memory
  /-- The model's own field: the parameters of `00_scope.md` R6, which no instruction changes (R26; log 3). -/
  params : Config.Params
deriving DecidableEq, Repr

/-- The reasons a step can stop with a fault. There are none: the core raises no exception
(`60_exceptions.md` R205) and its step is total (R202). -/
inductive Fault where
deriving DecidableEq, Repr

/-- The reasons the model can refuse. -/
inductive Refusal where
  /-- Raised by an arm of `exec` whose instruction has no meaning yet; safe. No arm raises it. -/
  | notModelled (mnemonic : String)
  /-- Raised by `Session.apply` when the host loads memory or sets PC in the middle of a run, which is outside
  the machine (`70_reset_and_hazards.md` R236; log 9); safe. No instruction and no step raises it. -/
  | hostMutationMidRun
deriving DecidableEq, Repr

/-- The general registers after reset: all zero but SP (`10_state.md` R30). -/
def State.resetRegisters : Vector Word 16 :=
  #v[0x0000, 0x0000, 0x0000, 0x0000, 0x0000, 0x0000, 0x0000, 0x0000,
     0x0000, 0x0000, 0x0000, 0x0000, 0x0000, 0xFFFF, 0x0000, 0x0000]

/-- The state after reset over a given memory, which reset does not write (`70_reset_and_hazards.md` R230). At
the first reset it holds `MEM_INIT` wherever nothing is listed (R232). -/
def State.resetWith (params : Config.Params) (mem : Memory) : State where
  x := State.resetRegisters
  psw := 0x0000
  cs := 0x0000
  ds := 0x0000
  ss := 0x0000
  es := 0x0000
  pswShadow := 0x0000
  pcShadow := 0x0000
  csShadow := 0x0000
  running := true
  mem := mem
  params := params

/-- The machine right after its first reset, with the parameters at the spec's defaults and nothing listed in
memory, so that every address holds its word of `MEM_INIT`, which is free (`70_reset_and_hazards.md` R232;
log 1). -/
def State.reset : State := State.resetWith Config.defaults []

/-- The `reset` event in any state: every register to its reset value, memory left as it is
(`70_reset_and_hazards.md` R230, R231). -/
def State.resetEvent (s : State) : State := State.resetWith s.params s.mem

end Sys2Proof.Machine
end

