-- ==== Sys2Proof/Machine/Ops.lean ====
section
/-! DEFINITION. The named operations over memory and registers, the entry into the privileged context and
the return from it. -/

namespace Sys2Proof.Machine

/-! Memory. -/

/-- One past the highest byte address: two bytes for each of the 65536 words (`20_memory.md` R40). -/
def memoryBytes : Nat := 131072

/-- The byte that `MEM_INIT` gives a byte address, in a memory laid out in byte order `o`
(`70_reset_and_hazards.md` R232; log 1). -/
def initialByte (o : Config.ByteOrder) (k : Nat) : Byte :=
  if k % 2 = 0 then firstByte o (Config.memInit (BitVec.ofNat 16 (k / 2)))
  else secondByte o (Config.memInit (BitVec.ofNat 16 (k / 2)))

/-- The byte that memory lists at a byte address, if any. -/
def Memory.listed : Memory → Nat → Option Byte
  | [], _ => none
  | (k, v) :: rest, a => if a = k then some v else Memory.listed rest a

/-- The byte held at a byte address: the one listed, or else that of `MEM_INIT`. -/
def Memory.byteAt (o : Config.ByteOrder) (m : Memory) (k : Nat) : Byte := (m.listed k).getD (initialByte o k)

/-- Write a byte: put it in its place in the list, over the one listed there. -/
def Memory.setByte : Memory → Nat → Byte → Memory
  | [], a, v => [(a, v)]
  | (k, w) :: rest, a, v =>
    if a < k then (a, v) :: (k, w) :: rest
    else if a = k then (a, v) :: rest
    else (k, w) :: Memory.setByte rest a v

/-- The canonical form, for the addresses from `lo` on: addresses rise strictly and stay in the address space.
An unlisted byte reads as a free value, so no entry can be told equal to it and none is dropped (log 1). -/
def Memory.wfFrom : Nat → Memory → Bool
  | _, [] => true
  | lo, (k, _) :: rest => decide (lo ≤ k) && decide (k < memoryBytes) && Memory.wfFrom (k + 1) rest

/-- The canonical form of a memory. -/
def Memory.wf (m : Memory) : Bool := Memory.wfFrom 0 m

/-- The lower byte address of a word. -/
def firstByteAddr (a : Word) : Nat := 2 * a.toNat

/-- The higher byte address of a word. -/
def secondByteAddr (a : Word) : Nat := 2 * a.toNat + 1

/-- The word at a word address, in a memory laid out in byte order `o`. -/
def Memory.readWord (o : Config.ByteOrder) (m : Memory) (a : Word) : Word :=
  wordOfBytes o (m.byteAt o (firstByteAddr a)) (m.byteAt o (secondByteAddr a))

/-- Write the word at a word address, in a memory laid out in byte order `o`. -/
def Memory.writeWord (o : Config.ByteOrder) (m : Memory) (a : Word) (v : Word) : Memory :=
  (m.setByte (firstByteAddr a) (firstByte o v)).setByte (secondByteAddr a) (secondByte o v)

/-- The byte the state's memory holds at a byte address. -/
def State.byteAt (s : State) (k : Nat) : Byte := Memory.byteAt s.params.hostByteOrder s.mem k

/-- `MemRead(a, 1)` (`20_memory.md` R42). -/
def State.memRead (s : State) (a : Word) : Word := Memory.readWord s.params.hostByteOrder s.mem a

/-- `MemWrite(a, 1, v)` (`20_memory.md` R42). -/
def State.memWrite (s : State) (a v : Word) : State :=
  { s with mem := Memory.writeWord s.params.hostByteOrder s.mem a v }

/-! Registers. -/

/-- Read general register `r` (`10_state.md` R10); register 15 reads as the program counter (R13). -/
def State.reg (s : State) (r : Reg) : Word := s.x[r]

/-- Write general register `r`; none is hardwired (`10_state.md` R12). -/
def State.setReg (s : State) (r : Reg) (v : Word) : State := { s with x := s.x.set r v }

/-- The program counter, which is register 15 (`10_state.md` R13). -/
def State.pc (s : State) : Word := s.reg Reg.pc

/-- `x[15] <- next_pc` (`60_exceptions.md` R200). -/
def State.setPc (s : State) (v : Word) : State := s.setReg Reg.pc v

/-- The sequential next pc, modulo 65536 (`10_state.md` R15, R16). -/
def State.seqPc (s : State) : Word := s.pc + 1

/-- An instruction that does nothing more: `next_pc <- seq`. -/
def State.advance (s : State) : State := s.setPc s.seqPc

/-- Write a destination register; a destination of register 15 is the next pc with no increment added
(`10_state.md` R15). -/
def State.writeDest (s : State) (rd : Reg) (v : Word) : State :=
  (s.setReg rd v).setPc (if rd = Reg.pc then v else s.seqPc)

/-- Replace the program status word. -/
def State.setPsw (s : State) (v : Word) : State := { s with psw := v }

/-! The fetch and the halt. -/

/-- The word fetched at the program counter (`20_memory.md` R48). -/
def State.fetch (s : State) : Word := s.memRead s.pc

/-- Stop: `running <- false`, pc not advanced (`46_system.md` R182). -/
def State.halt (s : State) : State := { s with running := false }.setPc s.pc

/-! The privileged context: the only entry and the return (`60_exceptions.md` R208, R209). -/

/-- PSW with S, bit 5, set (`10_state.md` R17, R19). -/
def pswWithS (psw : Word) : Word := psw ||| 0x0020

/-- Enter the privileged context at `vector`: PSW, the return address and CS go into the shadow registers, S
is set, and control goes to `vector` (`46_system.md` R183, `60_exceptions.md` R208). -/
def State.enterContext (s : State) (vector : Word) : State :=
  { s with pswShadow := s.psw, pcShadow := s.seqPc, csShadow := s.cs, psw := pswWithS s.psw }.setPc vector

/-- Return: PSW and CS come back from the shadow registers and control goes to PC' with no increment; the
shadow registers keep their values (`46_system.md` R184, `60_exceptions.md` R209). -/
def State.leaveContext (s : State) : State :=
  { s with psw := s.pswShadow, cs := s.csShadow }.setPc s.pcShadow

end Sys2Proof.Machine
end

