-- ==== Sys2Proof/Machine/Operands.lean ====
section
/-! DEFINITION. How an instruction's fields become operands (`30_encoding.md` R74, R75), the effective address
(`43_load_store.md` R130) and the branch target (`44_branch.md` R140). -/

namespace Sys2Proof.Machine

/-- `zext_16` of a field (`00_scope.md` R9). -/
def zext16 {n : Nat} (v : BitVec n) : Word := v.setWidth 16

/-- `sext_16` of a field: its top bit fills the bits above it (`30_encoding.md` R75). -/
def sext16 {n : Nat} (v : BitVec n) : Word := v.signExtend 16

/-- The effective address: base plus signed displacement in words, modulo 65536 (`43_load_store.md` R130). -/
def State.effAddr (s : State) (rb : Reg) (off5 : BitVec 5) : Word := s.reg rb + sext16 off5

/-- The branch target: the address after the branch plus the signed offset in words (`44_branch.md` R140). -/
def State.branchTarget (s : State) (off9 : BitVec 9) : Word := s.pc + 1 + sext16 off9

end Sys2Proof.Machine
end

