-- ==== Sys2Proof/Machine/Flags.lean ====
section
/-! DEFINITION. The fields of PSW (`10_state.md` R17), the flags of the ALU (`41_alu.md` R101 to R107) and of
the shifts (`42_shift.md` R121 to R126), and the masks of the flag instructions (`45_flag.md` R160). -/

namespace Sys2Proof.Machine

/-! The layout of PSW (`10_state.md` R17). -/

/-- N, bit 0. -/
def State.flagN (s : State) : Bool := s.psw.getLsbD 0
/-- Z, bit 1. -/
def State.flagZ (s : State) : Bool := s.psw.getLsbD 1
/-- V, bit 2. -/
def State.flagV (s : State) : Bool := s.psw.getLsbD 2
/-- C, bit 3. -/
def State.flagC (s : State) : Bool := s.psw.getLsbD 3
/-- I, bit 4: stored only (R19). -/
def State.flagI (s : State) : Bool := s.psw.getLsbD 4
/-- S, bit 5: names the context, 1 the privileged one (`60_exceptions.md` R214). -/
def State.flagS (s : State) : Bool := s.psw.getLsbD 5
/-- SR, bits 9:6: stored only (R20). -/
def State.pswSR (s : State) : BitVec 4 := s.psw.extractLsb' 6 4
/-- The PSW bit DS, bit 10: stored only (R20); the segment register DS is another cell. -/
def State.pswDS (s : State) : Bool := s.psw.getLsbD 10
/-- ER, bits 14:11: stored only (R20). -/
def State.pswER (s : State) : BitVec 4 := s.psw.extractLsb' 11 4
/-- DE, bit 15: stored only (R20). -/
def State.pswDE (s : State) : Bool := s.psw.getLsbD 15

/-- PSW with N, Z, V and C replaced and bits 4 to 15 kept (`41_alu.md` R101). -/
def pswWithFlags (psw : Word) (n z v c : Bool) : Word :=
  (psw &&& 0xFFF0) ||| place 3 (BitVec.ofBool c) ||| place 2 (BitVec.ofBool v) |||
    place 1 (BitVec.ofBool z) ||| place 0 (BitVec.ofBool n)

/-! Results with their C and V. N and Z always come from the value. -/

/-- A result of the ALU or of a shift, with what its instruction's rule gives for C and V. -/
structure AluResult where
  /-- The 16-bit result. -/
  value : Word
  /-- C. -/
  carry : Bool
  /-- V. -/
  overflow : Bool
deriving DecidableEq, Repr

/-- ADD: C is the carry out of bit 15, V the signed overflow (`41_alu.md` R103). -/
def addResult (a b : Word) : AluResult where
  value := a + b
  carry := decide (65536 ≤ a.toNat + b.toNat)
  overflow := a.msb == b.msb && (a + b).msb != a.msb

/-- SUB: C is the borrow, V the signed overflow (`41_alu.md` R104). -/
def subResult (a b : Word) : AluResult where
  value := a - b
  carry := decide (a.toNat < b.toNat)
  overflow := a.msb != b.msb && (a - b).msb != a.msb

/-- AND, OR and XOR clear C and V (`41_alu.md` R105 to R107). -/
def logicResult (r : Word) : AluResult where
  value := r
  carry := false
  overflow := false

/-- The last bit a left shift by `n` moves out: bit `16 - n`, and 0 when nothing moves (`42_shift.md` R123). -/
def lastOutLeft (a : Word) (n : Nat) : Bool := if n = 0 then false else a.getLsbD (16 - n)

/-- The last bit a right shift or rotate by `n` moves out: bit `n - 1`, and 0 when nothing moves
(`42_shift.md` R124 to R126). -/
def lastOutRight (a : Word) (n : Nat) : Bool := if n = 0 then false else a.getLsbD (n - 1)

/-- SL (`42_shift.md` R123). Shifts clear V (R121). -/
def slResult (a : Word) (n : Nat) : AluResult where
  value := a <<< n
  carry := lastOutLeft a n
  overflow := false

/-- SR (`42_shift.md` R124). -/
def srResult (a : Word) (n : Nat) : AluResult where
  value := a >>> n
  carry := lastOutRight a n
  overflow := false

/-- SRA: copies of the old bit 15 enter (`42_shift.md` R125). -/
def sraResult (a : Word) (n : Nat) : AluResult where
  value := a.sshiftRight n
  carry := lastOutRight a n
  overflow := false

/-- ROR: a rotate through the 16 bits, C no part of it (`42_shift.md` R126). -/
def rorResult (a : Word) (n : Nat) : AluResult where
  value := a.rotateRight n
  carry := lastOutRight a n
  overflow := false

/-- Write a result and its four flags; when `rd` is 15 the result is the next pc (`41_alu.md` R101, R102,
`42_shift.md` R121, R122). -/
def State.writeResult (s : State) (rd : Reg) (r : AluResult) : State :=
  (s.setPsw (pswWithFlags s.psw r.value.msb (r.value == 0) r.overflow r.carry)).writeDest rd r.value

/-! Branches and flag masks. -/

/-- A branch: taken when the condition holds, otherwise sequential; nothing else changes (`44_branch.md` R141). -/
def State.branch (s : State) (taken : Bool) (off9 : BitVec 9) : State :=
  s.setPc (if taken then s.branchTarget off9 else s.seqPc)

/-- `mask(g, idx)` for a group whose index 0 names bit `base`, cut to 16 bits (`45_flag.md` R160). -/
def flagMask (base : Nat) (idx : Fin 16) : Word := BitVec.ofNat 16 ((1 <<< idx.val) <<< base)

/-- Set the PSW bits of a mask and go on (`45_flag.md` R160, R166). -/
def State.setFlagBits (s : State) (mask : Word) : State := (s.setPsw (s.psw ||| mask)).advance

/-- Clear the PSW bits of a mask and go on (`45_flag.md` R160, R166). -/
def State.clearFlagBits (s : State) (mask : Word) : State := (s.setPsw (s.psw &&& ~~~mask)).advance

end Sys2Proof.Machine
end

