-- ==== Sys2Proof/Machine/Alu.lean ====
section
/-! DEFINITION. The ALU family: ADD, SUB, AND, OR, XOR against a register or a 4-bit immediate (`41_alu.md`). Both
operands are read from the state at the start of the step (R100). -/

namespace Sys2Proof.Machine

/-- ADD with a register operand (R103, m = 0). -/
def execAddReg (rd rs : Reg) (s : State) : Host.Outcome State Fault Refusal :=
  .next (s.writeResult rd (addResult (s.reg rd) (s.reg rs)))

/-- ADD with a zero-extended immediate (R103, m = 1). -/
def execAddImm (rd : Reg) (imm4 : BitVec 4) (s : State) : Host.Outcome State Fault Refusal :=
  .next (s.writeResult rd (addResult (s.reg rd) (zext16 imm4)))

/-- SUB with a register operand (R104, m = 0). -/
def execSubReg (rd rs : Reg) (s : State) : Host.Outcome State Fault Refusal :=
  .next (s.writeResult rd (subResult (s.reg rd) (s.reg rs)))

/-- SUB with a zero-extended immediate (R104, m = 1). -/
def execSubImm (rd : Reg) (imm4 : BitVec 4) (s : State) : Host.Outcome State Fault Refusal :=
  .next (s.writeResult rd (subResult (s.reg rd) (zext16 imm4)))

/-- AND with a register operand (R105, m = 0). -/
def execAndReg (rd rs : Reg) (s : State) : Host.Outcome State Fault Refusal :=
  .next (s.writeResult rd (logicResult (s.reg rd &&& s.reg rs)))

/-- AND with a zero-extended immediate (R105, m = 1). -/
def execAndImm (rd : Reg) (imm4 : BitVec 4) (s : State) : Host.Outcome State Fault Refusal :=
  .next (s.writeResult rd (logicResult (s.reg rd &&& zext16 imm4)))

/-- OR with a register operand (R106, m = 0). -/
def execOrReg (rd rs : Reg) (s : State) : Host.Outcome State Fault Refusal :=
  .next (s.writeResult rd (logicResult (s.reg rd ||| s.reg rs)))

/-- OR with a zero-extended immediate (R106, m = 1). -/
def execOrImm (rd : Reg) (imm4 : BitVec 4) (s : State) : Host.Outcome State Fault Refusal :=
  .next (s.writeResult rd (logicResult (s.reg rd ||| zext16 imm4)))

/-- XOR with a register operand (R107, m = 0). -/
def execXorReg (rd rs : Reg) (s : State) : Host.Outcome State Fault Refusal :=
  .next (s.writeResult rd (logicResult (s.reg rd ^^^ s.reg rs)))

/-- XOR with a zero-extended immediate (R107, m = 1). -/
def execXorImm (rd : Reg) (imm4 : BitVec 4) (s : State) : Host.Outcome State Fault Refusal :=
  .next (s.writeResult rd (logicResult (s.reg rd ^^^ zext16 imm4)))

end Sys2Proof.Machine
end

