-- ==== Sys2Proof/Machine/Branch.lean ====
section
/-! DEFINITION. The branch family (`44_branch.md` R140 to R149). -/

namespace Sys2Proof.Machine

/-- JZ: taken when Z is 1 (R142). -/
def execJz (off9 : BitVec 9) (s : State) : Host.Outcome State Fault Refusal :=
  .next (s.branch s.flagZ off9)

/-- JNZ: taken when Z is 0 (R143). -/
def execJnz (off9 : BitVec 9) (s : State) : Host.Outcome State Fault Refusal :=
  .next (s.branch (!s.flagZ) off9)

/-- JC: taken when C is 1 (R144). -/
def execJc (off9 : BitVec 9) (s : State) : Host.Outcome State Fault Refusal :=
  .next (s.branch s.flagC off9)

/-- JNC: taken when C is 0 (R145). -/
def execJnc (off9 : BitVec 9) (s : State) : Host.Outcome State Fault Refusal :=
  .next (s.branch (!s.flagC) off9)

/-- JN: taken when N is 1 (R146). -/
def execJn (off9 : BitVec 9) (s : State) : Host.Outcome State Fault Refusal :=
  .next (s.branch s.flagN off9)

/-- JNN: taken when N is 0 (R147). -/
def execJnn (off9 : BitVec 9) (s : State) : Host.Outcome State Fault Refusal :=
  .next (s.branch (!s.flagN) off9)

/-- JO: taken when V is 1 (R148). -/
def execJo (off9 : BitVec 9) (s : State) : Host.Outcome State Fault Refusal :=
  .next (s.branch s.flagV off9)

/-- JNO: taken when V is 0 (R149). -/
def execJno (off9 : BitVec 9) (s : State) : Host.Outcome State Fault Refusal :=
  .next (s.branch (!s.flagV) off9)

end Sys2Proof.Machine
end

