-- ==== Sys2Proof/Machine/DataMove.lean ====
section
/-! DEFINITION. The data-move family: MOV and LSI (`40_data_move.md`). Neither touches PSW or memory (R90). -/

namespace Sys2Proof.Machine

/-- MOV: `x[Rd] <- x[Rs] + imm2` (R91). -/
def execMov (rd rs : Reg) (imm2 : BitVec 2) (s : State) : Host.Outcome State Fault Refusal :=
  .next (s.writeDest rd (s.reg rs + zext16 imm2))

/-- LSI: `x[Rd] <- sext_16(imm5)` (R92). -/
def execLsi (rd : Reg) (imm5 : BitVec 5) (s : State) : Host.Outcome State Fault Refusal :=
  .next (s.writeDest rd (sext16 imm5))

end Sys2Proof.Machine
end

