-- ==== Sys2Proof/Machine/FlagOps.lean ====
section
/-! DEFINITION. The flag family: SET, CLR, SET2, CLR2 change one PSW bit by index (`45_flag.md`). -/

namespace Sys2Proof.Machine

/-- SET: group L, index 0 names bit 0 (R162). -/
def execSet (idx : Fin 16) (s : State) : Host.Outcome State Fault Refusal :=
  .next (s.setFlagBits (flagMask 0 idx))

/-- CLR: group L (R163). -/
def execClr (idx : Fin 16) (s : State) : Host.Outcome State Fault Refusal :=
  .next (s.clearFlagBits (flagMask 0 idx))

/-- SET2: group H, index 0 names bit `FLAG_BASE_H` (R164). -/
def execSet2 (idx : Fin 16) (s : State) : Host.Outcome State Fault Refusal :=
  .next (s.setFlagBits (flagMask s.params.flagBaseH.val idx))

/-- CLR2: group H (R165). -/
def execClr2 (idx : Fin 16) (s : State) : Host.Outcome State Fault Refusal :=
  .next (s.clearFlagBits (flagMask s.params.flagBaseH.val idx))

end Sys2Proof.Machine
end

