-- ==== Sys2Proof/Machine/LargeImmediate.lean ====
section
/-! DEFINITION. The large-immediate load LDI (`47_large_immediate.md`). -/

namespace Sys2Proof.Machine

/-- LDI: `x[0] <- zext_16(imm13)`, no flag (R195). -/
def execLdi (imm13 : BitVec 13) (s : State) : Host.Outcome State Fault Refusal :=
  .next (s.writeDest 0 (zext16 imm13))

end Sys2Proof.Machine
end

