-- ==== Sys2Proof/Machine/LoadStore.lean ====
section
/-! DEFINITION. The memory family: LD and ST, one word at base plus displacement (`43_load_store.md`). -/

namespace Sys2Proof.Machine

/-- LD: `x[Rd] <- Mem[EA]` (R131). -/
def execLd (rd rb : Reg) (off5 : BitVec 5) (s : State) : Host.Outcome State Fault Refusal :=
  .next (s.writeDest rd (s.memRead (s.effAddr rb off5)))

/-- ST: `Mem[EA] <- x[Rd]`; writes no register (R132). -/
def execSt (rd rb : Reg) (off5 : BitVec 5) (s : State) : Host.Outcome State Fault Refusal :=
  .next ((s.memWrite (s.effAddr rb off5) (s.reg rd)).advance)

end Sys2Proof.Machine
end

