-- ==== Sys2Proof/Machine/Shift.lean ====
section
/-! DEFINITION. The shift family: SL, SR, SRA, ROR in place by a 4-bit count (`42_shift.md` R120). -/

namespace Sys2Proof.Machine

/-- SL, logical left (R123). -/
def execSl (rd : Reg) (cnt : Fin 16) (s : State) : Host.Outcome State Fault Refusal :=
  .next (s.writeResult rd (slResult (s.reg rd) cnt.val))

/-- SR, logical right (R124). -/
def execSr (rd : Reg) (cnt : Fin 16) (s : State) : Host.Outcome State Fault Refusal :=
  .next (s.writeResult rd (srResult (s.reg rd) cnt.val))

/-- SRA, arithmetic right (R125). -/
def execSra (rd : Reg) (cnt : Fin 16) (s : State) : Host.Outcome State Fault Refusal :=
  .next (s.writeResult rd (sraResult (s.reg rd) cnt.val))

/-- ROR, rotate right (R126). -/
def execRor (rd : Reg) (cnt : Fin 16) (s : State) : Host.Outcome State Fault Refusal :=
  .next (s.writeResult rd (rorResult (s.reg rd) cnt.val))

end Sys2Proof.Machine
end

