-- ==== Sys2Proof/Machine/System.lean ====
section
/-! DEFINITION. The system family and the unassigned words (`46_system.md`). None is privileged (R180). -/

namespace Sys2Proof.Machine

/-- NOP (R181). -/
def execNop (s : State) : Host.Outcome State Fault Refusal :=
  .next s.advance

/-- HALT, word `0xFFF1` (R182). -/
def execHalt (s : State) : Host.Outcome State Fault Refusal :=
  .next s.halt

/-- SWI: enter the privileged context at `SWI_VECTOR` (R183). -/
def execSwi (s : State) : Host.Outcome State Fault Refusal :=
  .next (s.enterContext s.params.swiVector)

/-- RETI: return from the privileged context; S is not checked (R184). -/
def execReti (s : State) : Host.Outcome State Fault Refusal :=
  .next s.leaveContext

/-- The all-ones HALT, word `0xFFFF`: the effect of R182 (R185). -/
def execHaltOnes (s : State) : Host.Outcome State Fault Refusal :=
  .next s.halt

/-- UNDEF: a no-op that advances pc (R186), whatever the word. -/
def execUndef (_word : Word) (s : State) : Host.Outcome State Fault Refusal :=
  .next s.advance

end Sys2Proof.Machine
end

