-- ==== Sys2Proof/Machine/Dispatch.lean ====
section
/-! DEFINITION. The dispatch: one arm per instruction, each a call of that instruction's meaning. -/

namespace Sys2Proof.Machine

/-- The effect of one instruction on a running core (`60_exceptions.md` R200). -/
def exec (i : Instr) (s : State) : Host.Outcome State Fault Refusal :=
  match i with
  | .ldi imm13 => Sys2Proof.Machine.execLdi imm13 s
  | .ld rd rb off5 => Sys2Proof.Machine.execLd rd rb off5 s
  | .st rd rb off5 => Sys2Proof.Machine.execSt rd rb off5 s
  | .addReg rd rs => Sys2Proof.Machine.execAddReg rd rs s
  | .addImm rd imm4 => Sys2Proof.Machine.execAddImm rd imm4 s
  | .subReg rd rs => Sys2Proof.Machine.execSubReg rd rs s
  | .subImm rd imm4 => Sys2Proof.Machine.execSubImm rd imm4 s
  | .andReg rd rs => Sys2Proof.Machine.execAndReg rd rs s
  | .andImm rd imm4 => Sys2Proof.Machine.execAndImm rd imm4 s
  | .orReg rd rs => Sys2Proof.Machine.execOrReg rd rs s
  | .orImm rd imm4 => Sys2Proof.Machine.execOrImm rd imm4 s
  | .xorReg rd rs => Sys2Proof.Machine.execXorReg rd rs s
  | .xorImm rd imm4 => Sys2Proof.Machine.execXorImm rd imm4 s
  | .sl rd cnt => Sys2Proof.Machine.execSl rd cnt s
  | .sr rd cnt => Sys2Proof.Machine.execSr rd cnt s
  | .sra rd cnt => Sys2Proof.Machine.execSra rd cnt s
  | .ror rd cnt => Sys2Proof.Machine.execRor rd cnt s
  | .jz off9 => Sys2Proof.Machine.execJz off9 s
  | .jnz off9 => Sys2Proof.Machine.execJnz off9 s
  | .jc off9 => Sys2Proof.Machine.execJc off9 s
  | .jnc off9 => Sys2Proof.Machine.execJnc off9 s
  | .jn off9 => Sys2Proof.Machine.execJn off9 s
  | .jnn off9 => Sys2Proof.Machine.execJnn off9 s
  | .jo off9 => Sys2Proof.Machine.execJo off9 s
  | .jno off9 => Sys2Proof.Machine.execJno off9 s
  | .mov rd rs imm2 => Sys2Proof.Machine.execMov rd rs imm2 s
  | .lsi rd imm5 => Sys2Proof.Machine.execLsi rd imm5 s
  | .set idx => Sys2Proof.Machine.execSet idx s
  | .clr idx => Sys2Proof.Machine.execClr idx s
  | .set2 idx => Sys2Proof.Machine.execSet2 idx s
  | .clr2 idx => Sys2Proof.Machine.execClr2 idx s
  | .nop => Sys2Proof.Machine.execNop s
  | .halt => Sys2Proof.Machine.execHalt s
  | .swi => Sys2Proof.Machine.execSwi s
  | .reti => Sys2Proof.Machine.execReti s
  | .haltOnes => Sys2Proof.Machine.execHaltOnes s
  | .undef word => Sys2Proof.Machine.execUndef word s

end Sys2Proof.Machine
end

