-- ==== Sys2Proof/Machine/Step.lean ====
section
/-! DEFINITION. One step of the core (`60_exceptions.md` R200, R201), the `continue` it answers, and how an
instruction is placed where the next step fetches. -/

namespace Sys2Proof.Machine

/-- One step: fetch, decode, execute; a halted core changes nothing (R200, R201). -/
def step (s : State) : Host.Outcome State Fault Refusal :=
  if s.running then exec (decode s.fetch) s else .next s

/-- The `continue` a step answers: false exactly when the core is halted after it (`46_system.md` R182,
`60_exceptions.md` R201). -/
def stepContinue (s : State) : Bool :=
  match step s with
  | .next t => t.running
  | .fault _ => false
  | .refused _ => false

/-- The state with the instruction word `w` at the program counter, as the host's `load` puts it there
(`70_reset_and_hazards.md` R236; log 5), and the core running, since a halted core fetches nothing. -/
def State.withFetchWord (s : State) (nbits w : Nat) : State :=
  { s.memWrite s.pc (BitVec.ofNat 16 (w % 2 ^ nbits)) with running := true }

end Sys2Proof.Machine
end

