-- ==== Sys2Proof/Machine/Asm.lean ====
section
/-! DEFINITION. The assembler's encode function and its errors (`30_encoding.md` R78, R79, R82 to R86), from a
mnemonic and operand tokens to an instruction. Reading source text, directives and the symbol table are the
assembler's algorithm, which is out of scope (`00_scope.md` R4; log 10). The core never sees any of this. -/

namespace Sys2Proof

/-- An operand as the assembler reads it: a name (a register or a label), a number, or a numeric literal as it is
written (R82, R83). -/
inductive Token where
  | name (text : String)
  | num (value : Int)
  | literal (text : String)
deriving DecidableEq, Repr

/-- The errors of the encode function; each states the offending token (R78). -/
inductive EncodingError where
  /-- `UnknownRegister`. -/
  | unknownRegister (token : Token)
  /-- `InvalidImmediate`: a literal that is no number, or a value outside the field's declared range. -/
  | invalidImmediate (token : Token)
  /-- `UnknownLabel`. -/
  | unknownLabel (token : Token)
  /-- `UnknownInstruction`: the offending token is the mnemonic. -/
  | unknownInstruction (mnemonic : String)
  /-- `BranchRangeExceeded`: the offset to the target does not fit 9 signed bits. -/
  | branchRangeExceeded (token : Token) (offset : Int)
  /-- `FlagIndexOutOfRange`: a flag index outside 0 to 15. -/
  | flagIndexOutOfRange (token : Token)
  /-- The number of operands fits no form of R84. DESIGN CHOICE: the spec names no error for it (log 10). -/
  | wrongOperands (count : Nat)
deriving DecidableEq, Repr

/-- The labels the encoding pass may use, each with its word address (R81, R83). -/
abbrev Labels := List (String × Word)

/-- Mnemonics and register names are case-insensitive (R80); label names are not passed through here (log 13). -/
def canonText (text : String) : String := String.ofList (text.toList.map Char.toUpper)

/-- The assembler's name of a register (`10_state.md` R10, R11). -/
def regName : Reg → String
  | 0 => "R0"
  | 1 => "R1"
  | 2 => "R2"
  | 3 => "R3"
  | 4 => "R4"
  | 5 => "R5"
  | 6 => "R6"
  | 7 => "R7"
  | 8 => "R8"
  | 9 => "R9"
  | 10 => "R10"
  | 11 => "R11"
  | 12 => "FP"
  | 13 => "SP"
  | 14 => "LR"
  | _ => "PC"

/-- A register operand (R82). -/
def tokenReg (t : Token) : Except EncodingError Reg :=
  match t with
  | .num _ | .literal _ => .error (.unknownRegister t)
  | .name text =>
    match canonText text with
    | "R0" => .ok 0
    | "R1" => .ok 1
    | "R2" => .ok 2
    | "R3" => .ok 3
    | "R4" => .ok 4
    | "R5" => .ok 5
    | "R6" => .ok 6
    | "R7" => .ok 7
    | "R8" => .ok 8
    | "R9" => .ok 9
    | "R10" => .ok 10
    | "R11" => .ok 11
    | "FP" => .ok 12
    | "SP" => .ok 13
    | "LR" => .ok 14
    | "PC" => .ok 15
    | _ => .error (.unknownRegister t)

/-- The value of an upper-case digit in a base. -/
def digitValue (base : Nat) (c : Char) : Option Nat :=
  let v := if '0' ≤ c ∧ c ≤ '9' then c.toNat - 48 else if 'A' ≤ c ∧ c ≤ 'F' then c.toNat - 55 else base
  if v < base then some v else none

/-- The digits of a number, most significant first, after those already read into `acc`. -/
def digitsValue (base : Nat) : Nat → List Char → Option Nat
  | acc, [] => some acc
  | acc, c :: rest =>
    match digitValue base c with
    | some v => digitsValue base (acc * base + v) rest
    | none => none

/-- A number has at least one digit. -/
def numberValue (base : Nat) (digits : List Char) : Option Nat :=
  match digits with
  | [] => none
  | _ :: _ => digitsValue base 0 digits

/-- The value of a numeric literal: decimal with an optional leading `-`, `0x`-hexadecimal or `$`-hexadecimal (R83),
in either case (R80); none when the text is not one of these. DESIGN CHOICE: the `-` goes with decimal alone, as R83
has it (log 16). -/
def literalValue (text : String) : Option Int :=
  match (canonText text).toList with
  | '$' :: digits => Int.ofNat <$> numberValue 16 digits
  | '0' :: 'X' :: digits => Int.ofNat <$> numberValue 16 digits
  | '-' :: digits => (fun n => -Int.ofNat n) <$> numberValue 10 digits
  | digits => Int.ofNat <$> numberValue 10 digits

/-- The value of a numeric operand; a label stands for its word address (R83), and a literal that is no number is
an `InvalidImmediate` (R78). DESIGN CHOICE: a label is matched by its exact text, since R80 says of mnemonics and
register names only that case does not matter (log 13). DESIGN CHOICE: a label bound more than once has the address
of its first entry in the list, since the spec says nothing of a second binding (log 15). -/
def tokenValue (labels : Labels) (t : Token) : Except EncodingError Int :=
  match t with
  | .num n => .ok n
  | .literal text =>
    match literalValue text with
    | some n => .ok n
    | none => .error (.invalidImmediate t)
  | .name text =>
    match labels.find? (fun l => l.1 == text) with
    | some l => .ok l.2.toNat
    | none => .error (.unknownLabel t)

/-- The value of an operand that has to lie between `lo` and `hi`, the range of its field (R74, R78). -/
def immediate (labels : Labels) (lo hi : Int) (t : Token) : Except EncodingError Int := do
  let n ← tokenValue labels t
  if lo ≤ n ∧ n ≤ hi then .ok n else .error (.invalidImmediate t)

/-- A flag index, 0 to 15 (R78). -/
def flagIndex (labels : Labels) (t : Token) : Except EncodingError (Fin 16) := do
  let n ← tokenValue labels t
  if 0 ≤ n ∧ n ≤ 15 then .ok (BitVec.ofInt 4 n).toFin else .error (.flagIndexOutOfRange t)

/-- The offset of a branch at `addr` to a target: `target - (addr + 1)`, from -256 to 255 (R84). DESIGN CHOICE:
the difference is taken of integers, with no wrap, so a branch that wraps past `0xFFFF` or below 0 takes a target
outside 0 to 65535 (`JZ -1` at address 0), and the wrapped word address is out of range (log 14). -/
def branchOffset (labels : Labels) (addr : Word) (t : Token) : Except EncodingError (BitVec 9) := do
  let off := (← tokenValue labels t) - (addr.toNat + 1)
  if -256 ≤ off ∧ off ≤ 255 then .ok (BitVec.ofInt 9 off) else .error (.branchRangeExceeded t off)

/-! The operand forms of R84. -/

/-- No operand. -/
def asmNone (i : Instr) (ops : List Token) : Except EncodingError Instr :=
  if ops = [] then .ok i else .error (.wrongOperands ops.length)

/-- `LDI imm13`. -/
def asmLdi (labels : Labels) : List Token → Except EncodingError Instr
  | [t] => do return .ldi (BitVec.ofInt 13 (← immediate labels 0 8191 t))
  | ops => .error (.wrongOperands ops.length)

/-- `MOV Rd, Rs` and `MOV Rd, Rs, imm2`. -/
def asmMov (labels : Labels) : List Token → Except EncodingError Instr
  | [d, r] => do return .mov (← tokenReg d) (← tokenReg r) 0
  | [d, r, t] => do return .mov (← tokenReg d) (← tokenReg r) (BitVec.ofInt 2 (← immediate labels 0 3 t))
  | ops => .error (.wrongOperands ops.length)

/-- `LSI Rd, imm5`. -/
def asmLsi (labels : Labels) : List Token → Except EncodingError Instr
  | [d, t] => do return .lsi (← tokenReg d) (BitVec.ofInt 5 (← immediate labels (-16) 15 t))
  | ops => .error (.wrongOperands ops.length)

/-- `LD` and `ST`: `Rd, Rb` and `Rd, Rb, off5`. -/
def asmMemory (labels : Labels) (mk : Reg → Reg → BitVec 5 → Instr) : List Token → Except EncodingError Instr
  | [d, b] => do return mk (← tokenReg d) (← tokenReg b) 0
  | [d, b, t] => do return mk (← tokenReg d) (← tokenReg b) (BitVec.ofInt 5 (← immediate labels (-16) 15 t))
  | ops => .error (.wrongOperands ops.length)

/-- The ALU family: a register name gives m = 0, a number or a label m = 1 (R83). -/
def asmAlu (labels : Labels) (mkReg : Reg → Reg → Instr) (mkImm : Reg → BitVec 4 → Instr) :
    List Token → Except EncodingError Instr
  | [d, t] => do
    let rd ← tokenReg d
    match tokenReg t with
    | .ok rs => return mkReg rd rs
    | .error _ => return mkImm rd (BitVec.ofInt 4 (← immediate labels 0 15 t))
  | ops => .error (.wrongOperands ops.length)

/-- The shift family: `Rd, cnt`. -/
def asmShift (labels : Labels) (mk : Reg → Fin 16 → Instr) : List Token → Except EncodingError Instr
  | [d, t] => do return mk (← tokenReg d) (BitVec.ofInt 4 (← immediate labels 0 15 t)).toFin
  | ops => .error (.wrongOperands ops.length)

/-- The branch family: an absolute target. -/
def asmBranch (labels : Labels) (addr : Word) (mk : BitVec 9 → Instr) : List Token → Except EncodingError Instr
  | [t] => do return mk (← branchOffset labels addr t)
  | ops => .error (.wrongOperands ops.length)

/-- The flag family: `idx`. -/
def asmFlag (labels : Labels) (mk : Fin 16 → Instr) : List Token → Except EncodingError Instr
  | [t] => do return mk (← flagIndex labels t)
  | ops => .error (.wrongOperands ops.length)

/-- The instruction of a mnemonic and its operands, at word address `addr` (R78, R84), with the aliases of R86.
`HALT` is the system-space halt (R85). -/
def assemble (labels : Labels) (addr : Word) (mnemonic : String) (ops : List Token) :
    Except EncodingError Instr :=
  match canonText mnemonic with
  | "LDI" => asmLdi labels ops
  | "LD" => asmMemory labels .ld ops
  | "ST" => asmMemory labels .st ops
  | "ADD" => asmAlu labels .addReg .addImm ops
  | "SUB" => asmAlu labels .subReg .subImm ops
  | "AND" => asmAlu labels .andReg .andImm ops
  | "OR" => asmAlu labels .orReg .orImm ops
  | "XOR" => asmAlu labels .xorReg .xorImm ops
  | "SL" => asmShift labels .sl ops
  | "SR" => asmShift labels .sr ops
  | "SRA" => asmShift labels .sra ops
  | "ROR" => asmShift labels .ror ops
  | "JZ" => asmBranch labels addr .jz ops
  | "JNZ" => asmBranch labels addr .jnz ops
  | "JC" => asmBranch labels addr .jc ops
  | "JNC" => asmBranch labels addr .jnc ops
  | "JN" => asmBranch labels addr .jn ops
  | "JNN" => asmBranch labels addr .jnn ops
  | "JO" => asmBranch labels addr .jo ops
  | "JNO" => asmBranch labels addr .jno ops
  | "MOV" => asmMov labels ops
  | "LSI" => asmLsi labels ops
  | "SET" => asmFlag labels .set ops
  | "CLR" => asmFlag labels .clr ops
  | "SET2" => asmFlag labels .set2 ops
  | "CLR2" => asmFlag labels .clr2 ops
  | "NOP" => asmNone .nop ops
  | "HALT" => asmNone .halt ops
  | "SWI" => asmNone .swi ops
  | "RETI" => asmNone .reti ops
  | "SETN" => asmNone (.set 0) ops
  | "SETZ" => asmNone (.set 1) ops
  | "SETV" => asmNone (.set 2) ops
  | "SETC" => asmNone (.set 3) ops
  | "CLRN" => asmNone (.clr 0) ops
  | "CLRZ" => asmNone (.clr 1) ops
  | "CLRV" => asmNone (.clr 2) ops
  | "CLRC" => asmNone (.clr 3) ops
  | "SETI" => asmNone (.set2 0) ops
  | "SETS" => asmNone (.set2 1) ops
  | "CLRI" => asmNone (.clr2 0) ops
  | "CLRS" => asmNone (.clr2 1) ops
  | _ => .error (.unknownInstruction mnemonic)

/-- `encode(mnemonic, operands)`: the word, or the error (R78). -/
def assembleWord (labels : Labels) (addr : Word) (mnemonic : String) (ops : List Token) :
    Except EncodingError Word := encode <$> assemble labels addr mnemonic ops

/-- The operand tokens of an instruction at word address `addr`, registers under their canonical names (R79,
R84); an `undef` has no mnemonic and no operands (R186). DESIGN CHOICE: the target of a branch that wraps is
written unwrapped, outside 0 to 65535, as `branchOffset` reads it (log 14). -/
def Instr.tokens (addr : Word) : Instr → List Token
  | .ldi imm13 => [.num imm13.toNat]
  | .ld rd rb off5 | .st rd rb off5 => [.name (regName rd), .name (regName rb), .num off5.toInt]
  | .addReg rd rs | .subReg rd rs | .andReg rd rs | .orReg rd rs | .xorReg rd rs =>
    [.name (regName rd), .name (regName rs)]
  | .addImm rd imm4 | .subImm rd imm4 | .andImm rd imm4 | .orImm rd imm4 | .xorImm rd imm4 =>
    [.name (regName rd), .num imm4.toNat]
  | .sl rd cnt | .sr rd cnt | .sra rd cnt | .ror rd cnt => [.name (regName rd), .num cnt.val]
  | .jz off9 | .jnz off9 | .jc off9 | .jnc off9 | .jn off9 | .jnn off9 | .jo off9 | .jno off9 =>
    [.num (addr.toNat + 1 + off9.toInt)]
  | .mov rd rs imm2 => [.name (regName rd), .name (regName rs), .num imm2.toNat]
  | .lsi rd imm5 => [.name (regName rd), .num imm5.toInt]
  | .set idx | .clr idx | .set2 idx | .clr2 idx => [.num idx.val]
  | .nop | .halt | .swi | .reti | .haltOnes | .undef _ => []

end Sys2Proof
end

