-- ==== Sys2Proof/Machine/HostEvents.lean ====
section
/-! DEFINITION. The events by which a host drives the core, in the order it may use them (`00_scope.md` R7,
`70_reset_and_hazards.md` R230 to R239). -/

namespace Sys2Proof.Machine

/-- The events that can change the core (`00_scope.md` R7). State read-out changes nothing (R238): every
field of `State` is readable. -/
inductive HostEvent where
  /-- `reset` (R230). -/
  | reset
  /-- `step` (R200). -/
  | step
  /-- `load(addr, word)` (R236). -/
  | load (addr value : Word)
  /-- `set_pc(addr)` (R236). -/
  | setPc (addr : Word)
deriving DecidableEq, Repr

/-- A core and what its host's protocol needs to know of the past: whether a step has been taken since the
last reset (R236; log 9). -/
structure Session where
  /-- The core. -/
  state : State
  /-- A step has been taken since the last reset. -/
  stepped : Bool
deriving DecidableEq, Repr

/-- Power-on and the first reset (`10_state.md` R30, R31). `image` lists what a launch states of `MEM_INIT`; every
byte it does not list is free (`70_reset_and_hazards.md` R232; log 1). -/
def Session.powerOn (params : Config.Params) (image : Memory) : Session where
  state := State.resetWith params image
  stepped := false

/-- `load(addr, word)`: write one word of memory (R236). -/
def State.hostLoad (s : State) (addr value : Word) : State := s.memWrite addr value

/-- `set_pc(addr)`: write the program counter (R236). -/
def State.hostSetPc (s : State) (addr : Word) : State := s.setPc addr

/-- When the host may change the core: after reset before the first step, or while halted (R236). -/
def Session.mayMutate (c : Session) : Bool := !c.stepped || !c.state.running

/-- The session after the host's own write to the core, refused by name in the middle of a run (R236, R239). -/
def Session.mutate (c : Session) (t : State) : Host.Outcome Session Fault Refusal :=
  if c.mayMutate then .next { c with state := t } else .refused .hostMutationMidRun

/-- One event of the host. -/
def Session.apply (e : HostEvent) (c : Session) : Host.Outcome Session Fault Refusal :=
  match e with
  | .reset => .next { state := c.state.resetEvent, stepped := false }
  | .step =>
    match Machine.step c.state with
    | .next t => .next { state := t, stepped := true }
    | .fault r => .fault r
    | .refused r => .refused r
  | .load addr value => c.mutate (c.state.hostLoad addr value)
  | .setPc addr => c.mutate (c.state.hostSetPc addr)

/-- A sequence of events, stopping at the first one refused. -/
def Session.run : List HostEvent → Session → Host.Outcome Session Fault Refusal
  | [], c => .next c
  | e :: rest, c =>
    match c.apply e with
    | .next c' => Session.run rest c'
    | .fault r => .fault r
    | .refused r => .refused r

end Sys2Proof.Machine
end

