-- ==== Sys2Proof/Safety.lean ====
section
/-! DEFINITION. The terms in which claims speak of a step: what it wrote, what it left alone, and the
invariants a run keeps. -/

namespace Sys2Proof.Safety

open Sys2Proof.Machine

/-- `trunc_16(n)`: an integer modulo 65536 (`00_scope.md` R9). -/
def trunc16 (n : Int) : Word := BitVec.ofInt 16 n

/-- A field's value in its place, as the encodings of the instruction rules write it (`Rd<<6`). -/
def fieldAt (lo : Nat) (value : Nat) : Word := trunc16 value <<< lo

/-! What a step wrote. -/

/-- The destination holds `v`; pc, when it is another register, is the next address; every other register is
unchanged (`10_state.md` R15). -/
def DestWritten (rd : Reg) (v : Word) (s t : State) : Prop :=
  t.reg rd = v ∧ (rd ≠ Reg.pc → t.reg Reg.pc = trunc16 ((s.reg Reg.pc).toNat + 1)) ∧
    ∀ q, q ≠ rd → q ≠ Reg.pc → t.reg q = s.reg q

/-- Control goes to `target` and every other register is unchanged. -/
def GoesTo (target : Word) (s t : State) : Prop :=
  t.reg Reg.pc = target ∧ ∀ q, q ≠ Reg.pc → t.reg q = s.reg q

/-- Control goes to the next address and every other register is unchanged. -/
def GoesOn (s t : State) : Prop := GoesTo (trunc16 ((s.reg Reg.pc).toNat + 1)) s t

/-- The four flags of PSW are written and bits 4 to 15 are unchanged (`10_state.md` R17, `41_alu.md` R101). -/
def FlagsWritten (n z v c : Bool) (s t : State) : Prop :=
  t.psw.getLsbD 0 = n ∧ t.psw.getLsbD 1 = z ∧ t.psw.getLsbD 2 = v ∧ t.psw.getLsbD 3 = c ∧
    ∀ j, 4 ≤ j → j < 16 → t.psw.getLsbD j = s.psw.getLsbD j

/-! What a step left alone. -/

/-- PSW is unchanged. -/
def PswKept (s t : State) : Prop := t.psw = s.psw

/-- The segment registers are unchanged. -/
def SegmentsKept (s t : State) : Prop := t.cs = s.cs ∧ t.ds = s.ds ∧ t.ss = s.ss ∧ t.es = s.es

/-- The shadow registers are unchanged. -/
def ShadowsKept (s t : State) : Prop :=
  t.pswShadow = s.pswShadow ∧ t.pcShadow = s.pcShadow ∧ t.csShadow = s.csShadow

/-- The running flag and the parameters are unchanged. -/
def ControlKept (s t : State) : Prop := t.running = s.running ∧ t.params = s.params

/-- Everything but the general registers, PSW and memory is unchanged. -/
def SystemKept (s t : State) : Prop := SegmentsKept s t ∧ ShadowsKept s t ∧ ControlKept s t

/-- Every byte of memory reads as before. -/
def MemoryKept (s t : State) : Prop := ∀ k, t.byteAt k = s.byteAt k

/-- The word at `a` reads as `v`, every other word as before, and every byte outside the two of word `a` is
unchanged (`20_memory.md` R42). -/
def StoredOnly (a v : Word) (s t : State) : Prop :=
  t.memRead a = v ∧ (∀ b, b ≠ a → t.memRead b = s.memRead b) ∧
    ∀ k, k / 2 ≠ a.toNat → t.byteAt k = s.byteAt k

/-! The shapes of an instruction's effect. -/

/-- A register is written, nothing else but pc: the data moves, LDI and LD (`40_data_move.md` R90). -/
def RegisterEffect (rd : Reg) (v : Word) (s t : State) : Prop :=
  DestWritten rd v s t ∧ PswKept s t ∧ SystemKept s t ∧ MemoryKept s t

/-- A result and its four flags: N and Z from the result, C and V as given (`41_alu.md` R101, `42_shift.md`
R121). -/
def ResultEffect (rd : Reg) (r : Word) (c v : Bool) (s t : State) : Prop :=
  DestWritten rd r s t ∧ FlagsWritten (r.getLsbD 15) (decide (r = 0)) v c s t ∧ SystemKept s t ∧
    MemoryKept s t

/-- Nothing changes but pc, which goes to `target`. -/
def JumpEffect (target : Word) (s t : State) : Prop :=
  GoesTo target s t ∧ PswKept s t ∧ SystemKept s t ∧ MemoryKept s t

/-- PSW bit `bit` becomes `value`, if PSW has such a bit, and nothing else changes but pc, which goes on
(`45_flag.md` R160, R166). -/
def FlagBitEffect (bit : Nat) (value : Bool) (s t : State) : Prop :=
  (∀ j, j < 16 → t.psw.getLsbD j = if j = bit then value else s.psw.getLsbD j) ∧
    GoesOn s t ∧ SystemKept s t ∧ MemoryKept s t

/-- The core stops and nothing else changes, pc with the rest (`46_system.md` R182). -/
def HaltEffect (s t : State) : Prop :=
  t.running = false ∧ t.params = s.params ∧ (∀ q, t.reg q = s.reg q) ∧ PswKept s t ∧ SegmentsKept s t ∧
    ShadowsKept s t ∧ MemoryKept s t

/-! Invariants of a run. -/

/-- The memory is in canonical form. -/
def MemoryCanonical (s : State) : Prop := s.mem.wf = true

/-- DS, SS and ES, which no instruction writes, and CS and CS', which only copy each other, are zero
(`10_state.md` R22, R23). -/
def SegmentsZero (s : State) : Prop := s.cs = 0 ∧ s.ds = 0 ∧ s.ss = 0 ∧ s.es = 0 ∧ s.csShadow = 0

/-! When two states are the same machine in all that a claim is about. -/

/-- Equal in everything but how a host lays words out as bytes: the same registers, and the same word at every
address (`20_memory.md` R45). -/
def SameButByteOrder (s s' : State) : Prop :=
  s'.x = s.x ∧ s'.psw = s.psw ∧ s'.cs = s.cs ∧ s'.ds = s.ds ∧ s'.ss = s.ss ∧ s'.es = s.es ∧
    s'.pswShadow = s.pswShadow ∧ s'.pcShadow = s.pcShadow ∧ s'.csShadow = s.csShadow ∧
    s'.running = s.running ∧ s'.params.swiVector = s.params.swiVector ∧
    s'.params.flagBaseH = s.params.flagBaseH ∧ ∀ a, s'.memRead a = s.memRead a

/-- The low nibble, N Z V C, agrees (`10_state.md` R17). -/
def SameFlags (psw psw' : Word) : Prop := ∀ j, j < 4 → psw'.getLsbD j = psw.getLsbD j

/-- Equal in everything but what the spec says affects nothing: PSW bits 4 to 15 and their saved copy, and the
segment registers and CS' (`10_state.md` R19, R20, R22). -/
def SameButDescriptive (s s' : State) : Prop :=
  s'.x = s.x ∧ SameFlags s.psw s'.psw ∧ SameFlags s.pswShadow s'.pswShadow ∧ s'.pcShadow = s.pcShadow ∧
    s'.running = s.running ∧ s'.mem = s.mem ∧ s'.params = s.params

/-! The operand forms of the assembler (`30_encoding.md` R84), family by family. -/

/-- The token is a name of register `r`, in either case (R80, R82). -/
def NamesRegister (t : Token) (r : Reg) : Prop := ∃ text, t = .name text ∧ canonText text = regName r

/-- The token is a number of value `n`, read already or as it is written (R83). -/
def NamesNumber (t : Token) (n : Int) : Prop := t = .num n ∨ ∃ text, t = .literal text ∧ literalValue text = some n

/-- The branches: mnemonic and instruction. -/
def branchForms : List (String × (BitVec 9 → Instr)) :=
  [("JZ", .jz), ("JNZ", .jnz), ("JC", .jc), ("JNC", .jnc), ("JN", .jn), ("JNN", .jnn), ("JO", .jo), ("JNO", .jno)]

/-- The flag instructions. -/
def flagForms : List (String × (Fin 16 → Instr)) :=
  [("SET", .set), ("CLR", .clr), ("SET2", .set2), ("CLR2", .clr2)]

/-- The shifts. -/
def shiftForms : List (String × (Reg → Fin 16 → Instr)) := [("SL", .sl), ("SR", .sr), ("SRA", .sra), ("ROR", .ror)]

/-- LD and ST. -/
def memoryForms : List (String × (Reg → Reg → BitVec 5 → Instr)) := [("LD", .ld), ("ST", .st)]

/-- The ALU instructions: mnemonic, register form and immediate form. -/
def aluForms : List (String × (Reg → Reg → Instr) × (Reg → BitVec 4 → Instr)) :=
  [("ADD", .addReg, .addImm), ("SUB", .subReg, .subImm), ("AND", .andReg, .andImm), ("OR", .orReg, .orImm),
    ("XOR", .xorReg, .xorImm)]

/-- The mnemonics whose first operand is a register. -/
def registerFirst : List String :=
  ["MOV", "LSI", "LD", "ST", "ADD", "SUB", "AND", "OR", "XOR", "SL", "SR", "SRA", "ROR"]

/-- What the assembler answers for an operand `n` that has to lie between `lo` and `hi`. -/
def inRange (lo hi n : Int) (i : Instr) (e : EncodingError) : Except EncodingError Instr :=
  if lo ≤ n ∧ n ≤ hi then .ok i else .error e

end Sys2Proof.Safety
end

