-- ==== Sys2Proof/Certificates/Slice0/Obligations.lean ====
section
/-! DEFINITION. The statements for the provers. -/

open Sys2Proof Sys2Proof.Machine Sys2Proof.Safety

/-! Reset and the host. -/

/-- R230, R232 and the table of R30: the reset event in any state, and the first reset. The model's choices (log 1):
what a launch states of memory is a list, the image, and wherever it lists nothing `MEM_INIT` is the free
`Config.memInit`. -/
def Obligations.ResetEventValues : Prop :=
  (∀ s : State,
    (∀ r : Reg, s.resetEvent.reg r = if r = Reg.sp then 0xFFFF else 0x0000) ∧
      s.resetEvent.psw = 0 ∧ s.resetEvent.cs = 0 ∧ s.resetEvent.ds = 0 ∧ s.resetEvent.ss = 0 ∧
      s.resetEvent.es = 0 ∧ s.resetEvent.pswShadow = 0 ∧ s.resetEvent.pcShadow = 0 ∧
      s.resetEvent.csShadow = 0 ∧ s.resetEvent.running = true ∧ s.resetEvent.mem = s.mem ∧
      ∀ a, s.resetEvent.memRead a = s.memRead a) ∧
  (∀ (p : Config.Params) (image : Memory),
    (Session.powerOn p image).state.mem = image ∧
      (Session.powerOn p image).state = (Session.powerOn p image).state.resetEvent ∧
      ∀ a, image.listed (firstByteAddr a) = none → image.listed (secondByteAddr a) = none →
        (Session.powerOn p image).state.memRead a = Config.memInit a) ∧
  ∀ a, State.reset.memRead a = Config.memInit a

/-- Reset does not depend on the state before it, memory and the fixed parameters aside, and resetting twice is
resetting once (R230, R231; the parameters are the model's own field, log 3). -/
def Obligations.ResetForgetsRegisters : Prop :=
  (∀ s s' : State, s'.mem = s.mem → s'.params = s.params → s'.resetEvent = s.resetEvent) ∧
  ∀ s : State, s.resetEvent.resetEvent = s.resetEvent

/-- R236: the host's two writes, allowed after reset before the first step or while halted, and otherwise
refused (U6; the refusal's name and the session's bit are the model's, log 9). -/
def Obligations.HostWritesOnlyOutsideARun : Prop :=
  ∀ c : Session,
    (c.stepped = true → c.state.running = true → ∀ a v,
      c.apply (.load a v) = .refused .hostMutationMidRun ∧ c.apply (.setPc a) = .refused .hostMutationMidRun) ∧
    (c.stepped = false ∨ c.state.running = false → ∀ a v,
      (∃ d, c.apply (.load a v) = .next d ∧ d.stepped = c.stepped ∧ StoredOnly a v c.state d.state ∧
        (∀ q, d.state.reg q = c.state.reg q) ∧ PswKept c.state d.state ∧ SystemKept c.state d.state) ∧
      (∃ d, c.apply (.setPc a) = .next d ∧ d.stepped = c.stepped ∧ JumpEffect a c.state d.state))

/-! Registers and memory. -/

/-- R13: register 15 and pc are one cell, read and written under either name. -/
def Obligations.PcIsRegisterFifteen : Prop :=
  ∀ (s : State) (v : Word), s.pc = s.reg 15 ∧ (s.setReg 15 v).pc = v ∧ (s.setPc v).reg 15 = v

/-- R12: no register is hardwired; each one reads back what was written, and a write to one changes no other. -/
def Obligations.EveryRegisterReadsBack : Prop :=
  ∀ (s : State) (r : Reg) (v : Word), (s.setReg r v).reg r = v ∧ ∀ q, q ≠ r → (s.setReg r v).reg q = s.reg q

/-- R42: a word written is read back, and a write changes no other cell and nothing but memory. -/
def Obligations.MemoryWriteSetsOneWord : Prop :=
  ∀ (s : State) (a v : Word),
    StoredOnly a v s (s.memWrite a v) ∧ (∀ q, (s.memWrite a v).reg q = s.reg q) ∧
      PswKept s (s.memWrite a v) ∧ SystemKept s (s.memWrite a v)

/-- Every content of the 65536 words, stated in full, is exactly one canonical memory, in either byte order, so a
statement about every state speaks of every `MEM_INIT`; and canonical memories that list the same bytes are equal
data (R25, R30, R232; the representation is the model's, log 1 and log 2). -/
def Obligations.EveryMemoryContentIsOneList : Prop :=
  (∀ (o : Config.ByteOrder) (f : Word → Word),
    ∃ m : Memory, (m.wf = true ∧ (∀ k, k < memoryBytes → m.listed k ≠ none) ∧ ∀ a, m.readWord o a = f a) ∧
      ∀ m' : Memory, m'.wf = true → (∀ k, k < memoryBytes → m'.listed k ≠ none) →
        (∀ a, m'.readWord o a = f a) → m' = m) ∧
  ∀ m m' : Memory, m.wf = true → m'.wf = true → (∀ k, m.listed k = m'.listed k) → m = m'

/-! The codec. -/

/-- Words written out from the worked encodings of `30_encoding.md` section 7 decode to the instructions they
stand for. -/
def Obligations.WorkedEncodingsDecode : Prop :=
  decode 0x1234 = .ldi 0x1234 ∧ decode 0x8243 = .ld 1 2 3 ∧ decode 0xA060 = .st 0 3 0 ∧
  decode 0xC011 = .addImm 0 1 ∧ decode 0xC8A6 = .xorReg 5 6 ∧ decode 0xD321 = .ror 2 1 ∧
  decode 0xE3FD = .jnz 0x1FD ∧ decode 0xFBF8 = .mov 15 14 0 ∧ decode 0xFC9F = .lsi 4 0x1F ∧
  decode 0xFE30 = .clr2 0 ∧ decode 0xFFF2 = .swi ∧ decode 0xFFFF = .haltOnes ∧ decode 0x4000 = .undef 0x4000

/-- Decode of encode is the instruction, for every well-formed instruction with every operand. -/
def Obligations.DecodeOfEncode : Prop := ∀ i : Instr, i.wf = true → decode (encode i) = i

/-- Every word decodes to a well-formed instruction that encodes to that word (R62). -/
def Obligations.EncodeOfDecode : Prop := ∀ w : Word, (decode w).wf = true ∧ encode (decode w) = w

/-- R79 and R85: the assembler's encode and the decoder agree on every assigned instruction, and `0xFFFF` is the
one assigned word that does not come back: it assembles to `0xFFF1`. The target of a branch that wraps past `0xFFFF`
or below 0 is written unwrapped, outside 0 to 65535: the model's choice (log 14). -/
def Obligations.AssemblerRoundTrip : Prop :=
  ∀ addr : Word,
    (∀ i : Instr, (∀ w, i ≠ .undef w) → i ≠ .haltOnes →
      ∃ w, assembleWord [] addr i.mnemonic (i.tokens addr) = .ok w ∧ decode w = i) ∧
    (∀ w : Word, isUnassigned w = false → w ≠ 0xFFFF →
      assembleWord [] addr (decode w).mnemonic ((decode w).tokens addr) = .ok w) ∧
    assembleWord [] addr (decode 0xFFFF).mnemonic ((decode 0xFFFF).tokens addr) = .ok 0xFFF1

/-- R66 and R67: every word matches exactly one row of the opcode map, and the row's mnemonic is that of the
instruction the word decodes to. -/
def Obligations.OpcodeMapPartitionsWords : Prop :=
  ∀ w : Word, ∃ r, opcodeTable.filter (fun q => q.matches w) = [r] ∧ r.mnemonic = (decode w).mnemonic

/-- R76: the unassigned words are exactly the six ranges; each decodes to `UNDEF` and executes as a no-op that
advances pc by one word. -/
def Obligations.UnassignedWordsAreNoOps : Prop :=
  ∀ w : Word,
    ((∃ v, decode w = .undef v) ↔
      (0x2000 ≤ w.toNat ∧ w.toNat ≤ 0x7FFF) ∨ (0xCA00 ≤ w.toNat ∧ w.toNat ≤ 0xCFFF) ∨
      (0xD400 ≤ w.toNat ∧ w.toNat ≤ 0xDFFF) ∨ (0xF000 ≤ w.toNat ∧ w.toNat ≤ 0xF7FF) ∨
      (0xFE40 ≤ w.toNat ∧ w.toNat ≤ 0xFFEF) ∨ (0xFFF4 ≤ w.toNat ∧ w.toNat ≤ 0xFFFE)) ∧
    ∀ v, decode w = .undef v → ∀ s : State, ∃ t, exec (decode w) s = .next t ∧
      JumpEffect (trunc16 ((s.reg Reg.pc).toNat + 1)) s t

/-- The two bytes of a word in a host's order decode to the word's instruction, and the rest is left (R60, R45). -/
def Obligations.HostBytesDecodeAsTheirWord : Prop :=
  ∀ (o : Config.ByteOrder) (w : Word) (rest : List Byte),
    decodeBytes o (firstByte o w :: secondByte o w :: rest) = .ok (decode w, rest) ∧
      wordOfBytes o (firstByte o w) (secondByte o w) = w

/-- R86: the twelve aliases and the words they assemble to. -/
def Obligations.FlagAliasesAssemble : Prop :=
  ∀ addr : Word,
    assembleWord [] addr "SETN" [] = .ok 0xFE00 ∧ assembleWord [] addr "SETZ" [] = .ok 0xFE01 ∧
    assembleWord [] addr "SETV" [] = .ok 0xFE02 ∧ assembleWord [] addr "SETC" [] = .ok 0xFE03 ∧
    assembleWord [] addr "CLRN" [] = .ok 0xFE10 ∧ assembleWord [] addr "CLRZ" [] = .ok 0xFE11 ∧
    assembleWord [] addr "CLRV" [] = .ok 0xFE12 ∧ assembleWord [] addr "CLRC" [] = .ok 0xFE13 ∧
    assembleWord [] addr "SETI" [] = .ok 0xFE20 ∧ assembleWord [] addr "SETS" [] = .ok 0xFE21 ∧
    assembleWord [] addr "CLRI" [] = .ok 0xFE30 ∧ assembleWord [] addr "CLRS" [] = .ok 0xFE31

/-- R74, R78, R82, R83 and R84: every numeric operand of every instruction assembles exactly in its range and is
otherwise an error that states the token, as is a literal that is no number, and every register position takes
exactly the register names. The model's choices: the sixteen names only, R12 to R15 not among them, and the first bad
operand from the left is the one reported (log 10); a branch's offset is an integer difference with no wrap (log 14);
which literals are numbers (log 16). -/
def Obligations.AssemblerRefusesOutOfRange : Prop :=
  ∀ (labels : Labels) (addr : Word),
    (∀ (n : Int) (k : Token), NamesNumber k n →
      let off := n - (addr.toNat + 1)
      (∀ p ∈ branchForms, assemble labels addr p.1 [k] =
        inRange (-256) 255 off (p.2 (BitVec.ofInt 9 off)) (.branchRangeExceeded k off)) ∧
      (∀ p ∈ flagForms, assemble labels addr p.1 [k] =
        inRange 0 15 n (p.2 (BitVec.ofInt 4 n).toFin) (.flagIndexOutOfRange k)) ∧
      assemble labels addr "LDI" [k] = inRange 0 8191 n (.ldi (BitVec.ofInt 13 n)) (.invalidImmediate k) ∧
      ∀ (d b : Token) (rd rb : Reg), NamesRegister d rd → NamesRegister b rb →
        assemble labels addr "LSI" [d, k] =
          inRange (-16) 15 n (.lsi rd (BitVec.ofInt 5 n)) (.invalidImmediate k) ∧
        assemble labels addr "MOV" [d, b, k] =
          inRange 0 3 n (.mov rd rb (BitVec.ofInt 2 n)) (.invalidImmediate k) ∧
        (∀ p ∈ memoryForms, assemble labels addr p.1 [d, b, k] =
          inRange (-16) 15 n (p.2 rd rb (BitVec.ofInt 5 n)) (.invalidImmediate k)) ∧
        (∀ p ∈ aluForms, assemble labels addr p.1 [d, k] =
          inRange 0 15 n (p.2.2 rd (BitVec.ofInt 4 n)) (.invalidImmediate k)) ∧
        ∀ p ∈ shiftForms, assemble labels addr p.1 [d, k] =
          inRange 0 15 n (p.2 rd (BitVec.ofInt 4 n).toFin) (.invalidImmediate k)) ∧
    (∀ text, literalValue text = none →
      let bad : Except EncodingError Instr := .error (.invalidImmediate (.literal text))
      (∀ p ∈ branchForms, assemble labels addr p.1 [.literal text] = bad) ∧
      (∀ p ∈ flagForms, assemble labels addr p.1 [.literal text] = bad) ∧
      assemble labels addr "LDI" [.literal text] = bad ∧
      ∀ (d b : Token) (rd rb : Reg), NamesRegister d rd → NamesRegister b rb →
        assemble labels addr "LSI" [d, .literal text] = bad ∧
        assemble labels addr "MOV" [d, b, .literal text] = bad ∧
        (∀ p ∈ memoryForms, assemble labels addr p.1 [d, b, .literal text] = bad) ∧
        (∀ p ∈ aluForms, assemble labels addr p.1 [d, .literal text] = bad) ∧
        ∀ p ∈ shiftForms, assemble labels addr p.1 [d, .literal text] = bad) ∧
    (∀ (d b : Token) (rd rb : Reg), NamesRegister d rd → NamesRegister b rb →
      assemble labels addr "MOV" [d, b] = .ok (.mov rd rb 0) ∧
      (∀ p ∈ memoryForms, assemble labels addr p.1 [d, b] = .ok (p.2 rd rb 0)) ∧
      ∀ p ∈ aluForms, assemble labels addr p.1 [d, b] = .ok (p.2.1 rd rb)) ∧
    ∀ t : Token, (∀ r, ¬ NamesRegister t r) → ∀ u v : Token,
      (∀ m ∈ registerFirst, assemble labels addr m [t, u] = .error (.unknownRegister t)) ∧
      (∀ m ∈ ["MOV", "LD", "ST"], assemble labels addr m [t, u, v] = .error (.unknownRegister t)) ∧
      ∀ (d : Token) (rd : Reg), NamesRegister d rd → ∀ m ∈ ["MOV", "LD", "ST"],
        assemble labels addr m [d, t] = .error (.unknownRegister t) ∧
        assemble labels addr m [d, t, v] = .error (.unknownRegister t)

/-! The step. -/

/-- R200: a running core fetches the word at pc and executes what it decodes to. -/
def Obligations.StepRunsDecodedInstruction : Prop :=
  ∀ s : State, s.running = true → ∀ i : Instr, decode (s.memRead (s.reg Reg.pc)) = i → step s = exec i s

/-- R201: a step of a halted core changes nothing and answers false, and of the host's events only reset leaves
the halted state. -/
def Obligations.HaltedStepChangesNothing : Prop :=
  (∀ s : State, s.running = false → step s = .next s ∧ stepContinue s = false) ∧
  ∀ (c d : Session) (e : HostEvent), c.state.running = false → c.apply e = .next d →
    (d.state.running = true ↔ e = .reset)

/-- R201: a halted core stays as it is for any number of steps. -/
def Obligations.HaltedCoreStaysAsItIs : Prop :=
  ∀ (n : Nat) (s : State), s.running = false → Host.Core.run Sys2Proof.core n s = .next s

/-- R202 and R26: every step has a next state, and no instruction changes the parameters. -/
def Obligations.StepIsTotalAndKeepsParameters : Prop :=
  ∀ s : State, ∃ t, step s = .next t ∧ t.params = s.params

/-- R203 and R182: a running core stops exactly when the word at pc is `0xFFF1` or `0xFFFF`, and then, and only
then, the step answers false. -/
def Obligations.RunEndsExactlyAtHalt : Prop :=
  ∀ s : State, s.running = true → ∃ t, step s = .next t ∧
    (t.running = false ↔ s.memRead (s.reg Reg.pc) = 0xFFF1 ∨ s.memRead (s.reg Reg.pc) = 0xFFFF) ∧
    (stepContinue s = false ↔ s.memRead (s.reg Reg.pc) = 0xFFF1 ∨ s.memRead (s.reg Reg.pc) = 0xFFFF)

/-! The instructions: the next state of each, with its frame. -/

/-- R91: MOV, every register in either field, pc among them. -/
def Obligations.MovEffect : Prop :=
  ∀ (rd rs : Reg) (imm2 : BitVec 2),
    encode (.mov rd rs imm2) = 0xF800 ||| fieldAt 6 rd ||| fieldAt 2 rs ||| fieldAt 0 imm2.toNat ∧
    ∀ s : State, ∃ t, exec (.mov rd rs imm2) s = .next t ∧
      RegisterEffect rd (trunc16 ((s.reg rs).toNat + imm2.toNat)) s t

/-- R92: LSI. -/
def Obligations.LsiEffect : Prop :=
  ∀ (rd : Reg) (imm5 : BitVec 5),
    encode (.lsi rd imm5) = 0xFC00 ||| fieldAt 5 rd ||| fieldAt 0 imm5.toNat ∧
    ∀ s : State, ∃ t, exec (.lsi rd imm5) s = .next t ∧ RegisterEffect rd (trunc16 imm5.toInt) s t

/-- R195: LDI, whose destination is register 0. -/
def Obligations.LdiEffect : Prop :=
  ∀ imm13 : BitVec 13, encode (.ldi imm13) = trunc16 imm13.toNat ∧
    ∀ s : State, ∃ t, exec (.ldi imm13) s = .next t ∧ RegisterEffect 0 (trunc16 imm13.toNat) s t

/-- R130 and R131: LD reads the word at the base plus the signed displacement. -/
def Obligations.LdEffect : Prop :=
  ∀ (rd rb : Reg) (off5 : BitVec 5),
    encode (.ld rd rb off5) = 0x8000 ||| fieldAt 9 rd ||| fieldAt 5 rb ||| fieldAt 0 off5.toNat ∧
    ∀ s : State, ∃ t, exec (.ld rd rb off5) s = .next t ∧
      RegisterEffect rd (s.memRead (trunc16 ((s.reg rb).toNat + off5.toInt))) s t

/-- R130 and R132: ST writes the one word at the base plus the signed displacement, and no register. -/
def Obligations.StEffect : Prop :=
  ∀ (rd rb : Reg) (off5 : BitVec 5),
    encode (.st rd rb off5) = 0xA000 ||| fieldAt 9 rd ||| fieldAt 5 rb ||| fieldAt 0 off5.toNat ∧
    ∀ s : State, ∃ t, exec (.st rd rb off5) s = .next t ∧
      StoredOnly (trunc16 ((s.reg rb).toNat + off5.toInt)) (s.reg rd) s t ∧ GoesOn s t ∧ PswKept s t ∧
      SystemKept s t

/-- R103: ADD of `a` and `b` into `rd`. -/
def Obligations.AddEffect : Prop :=
  ∀ (rd : Reg) (s : State),
    let spec : Word → State → Prop := fun b t =>
      let a := s.reg rd
      let r := trunc16 (a.toNat + b.toNat)
      ResultEffect rd r (decide (65536 ≤ a.toNat + b.toNat))
        (decide (a.getLsbD 15 = b.getLsbD 15 ∧ r.getLsbD 15 ≠ a.getLsbD 15)) s t
    (∀ rs : Reg, encode (.addReg rd rs) = 0xC000 ||| fieldAt 5 rd ||| fieldAt 0 rs ∧
      ∃ t, exec (.addReg rd rs) s = .next t ∧ spec (s.reg rs) t) ∧
    (∀ imm4 : BitVec 4, encode (.addImm rd imm4) = 0xC010 ||| fieldAt 5 rd ||| fieldAt 0 imm4.toNat ∧
      ∃ t, exec (.addImm rd imm4) s = .next t ∧ spec (trunc16 imm4.toNat) t)

/-- R104: SUB of `b` from `a` into `rd`. -/
def Obligations.SubEffect : Prop :=
  ∀ (rd : Reg) (s : State),
    let spec : Word → State → Prop := fun b t =>
      let a := s.reg rd
      let r := trunc16 ((a.toNat : Int) - b.toNat)
      ResultEffect rd r (decide (a.toNat < b.toNat))
        (decide (a.getLsbD 15 ≠ b.getLsbD 15 ∧ r.getLsbD 15 ≠ a.getLsbD 15)) s t
    (∀ rs : Reg, encode (.subReg rd rs) = 0xC200 ||| fieldAt 5 rd ||| fieldAt 0 rs ∧
      ∃ t, exec (.subReg rd rs) s = .next t ∧ spec (s.reg rs) t) ∧
    (∀ imm4 : BitVec 4, encode (.subImm rd imm4) = 0xC210 ||| fieldAt 5 rd ||| fieldAt 0 imm4.toNat ∧
      ∃ t, exec (.subImm rd imm4) s = .next t ∧ spec (trunc16 imm4.toNat) t)

/-- R105, R106 and R107: AND, OR and XOR, bit by bit; C and V are cleared. -/
def Obligations.LogicEffect : Prop :=
  ∀ (rd : Reg) (s : State),
    let spec : (Bool → Bool → Bool) → Word → State → Prop := fun f b t =>
      ∃ r : Word, (∀ j, j < 16 → r.getLsbD j = f ((s.reg rd).getLsbD j) (b.getLsbD j)) ∧
        ResultEffect rd r false false s t
    (∀ rs : Reg,
      encode (.andReg rd rs) = 0xC400 ||| fieldAt 5 rd ||| fieldAt 0 rs ∧
      encode (.orReg rd rs) = 0xC600 ||| fieldAt 5 rd ||| fieldAt 0 rs ∧
      encode (.xorReg rd rs) = 0xC800 ||| fieldAt 5 rd ||| fieldAt 0 rs ∧
      (∃ t, exec (.andReg rd rs) s = .next t ∧ spec (fun x y => x && y) (s.reg rs) t) ∧
      (∃ t, exec (.orReg rd rs) s = .next t ∧ spec (fun x y => x || y) (s.reg rs) t) ∧
      (∃ t, exec (.xorReg rd rs) s = .next t ∧ spec (fun x y => x != y) (s.reg rs) t)) ∧
    (∀ imm4 : BitVec 4,
      encode (.andImm rd imm4) = 0xC410 ||| fieldAt 5 rd ||| fieldAt 0 imm4.toNat ∧
      encode (.orImm rd imm4) = 0xC610 ||| fieldAt 5 rd ||| fieldAt 0 imm4.toNat ∧
      encode (.xorImm rd imm4) = 0xC810 ||| fieldAt 5 rd ||| fieldAt 0 imm4.toNat ∧
      (∃ t, exec (.andImm rd imm4) s = .next t ∧ spec (fun x y => x && y) (trunc16 imm4.toNat) t) ∧
      (∃ t, exec (.orImm rd imm4) s = .next t ∧ spec (fun x y => x || y) (trunc16 imm4.toNat) t) ∧
      (∃ t, exec (.xorImm rd imm4) s = .next t ∧ spec (fun x y => x != y) (trunc16 imm4.toNat) t))

/-- R123: SL. -/
def Obligations.SlEffect : Prop :=
  ∀ (rd : Reg) (cnt : Fin 16), encode (.sl rd cnt) = 0xD000 ||| fieldAt 4 rd ||| fieldAt 0 cnt ∧
    ∀ s : State, ∃ t, exec (.sl rd cnt) s = .next t ∧
      ResultEffect rd (trunc16 ((s.reg rd).toNat * 2 ^ cnt.val))
        (decide (cnt.val ≠ 0) && (s.reg rd).getLsbD (16 - cnt.val)) false s t

/-- R124: SR. -/
def Obligations.SrEffect : Prop :=
  ∀ (rd : Reg) (cnt : Fin 16), encode (.sr rd cnt) = 0xD100 ||| fieldAt 4 rd ||| fieldAt 0 cnt ∧
    ∀ s : State, ∃ t, exec (.sr rd cnt) s = .next t ∧
      ResultEffect rd (trunc16 ((s.reg rd).toNat / 2 ^ cnt.val))
        (decide (cnt.val ≠ 0) && (s.reg rd).getLsbD (cnt.val - 1)) false s t

/-- R125: SRA, the signed value divided by a power of two and rounded toward minus infinity. -/
def Obligations.SraEffect : Prop :=
  ∀ (rd : Reg) (cnt : Fin 16), encode (.sra rd cnt) = 0xD200 ||| fieldAt 4 rd ||| fieldAt 0 cnt ∧
    ∀ s : State, ∃ t, exec (.sra rd cnt) s = .next t ∧
      ResultEffect rd (trunc16 ((s.reg rd).toInt.fdiv (2 ^ cnt.val)))
        (decide (cnt.val ≠ 0) && (s.reg rd).getLsbD (cnt.val - 1)) false s t

/-- R126: ROR; bit `j` of the result is bit `j + n` of the old value, round the 16 bits, and C, when a bit
moved, is the new bit 15. -/
def Obligations.RorEffect : Prop :=
  ∀ (rd : Reg) (cnt : Fin 16), encode (.ror rd cnt) = 0xD300 ||| fieldAt 4 rd ||| fieldAt 0 cnt ∧
    ∀ s : State, ∃ t r, exec (.ror rd cnt) s = .next t ∧
      (∀ j, j < 16 → r.getLsbD j = (s.reg rd).getLsbD ((j + cnt.val) % 16)) ∧
      ResultEffect rd r (decide (cnt.val ≠ 0) && (s.reg rd).getLsbD (cnt.val - 1)) false s t ∧
      (cnt.val ≠ 0 → t.psw.getLsbD 3 = r.getLsbD 15)

/-- R140 to R149: the eight branches. -/
def Obligations.BranchEffect : Prop :=
  ∀ (off9 : BitVec 9) (s : State),
    let spec : Bool → State → Prop := fun taken t =>
      JumpEffect (if taken then trunc16 ((s.reg Reg.pc).toNat + 1 + off9.toInt)
        else trunc16 ((s.reg Reg.pc).toNat + 1)) s t
    (encode (.jz off9) = 0xE000 ||| fieldAt 0 off9.toNat ∧
      ∃ t, exec (.jz off9) s = .next t ∧ spec (s.psw.getLsbD 1) t) ∧
    (encode (.jnz off9) = 0xE200 ||| fieldAt 0 off9.toNat ∧
      ∃ t, exec (.jnz off9) s = .next t ∧ spec (!s.psw.getLsbD 1) t) ∧
    (encode (.jc off9) = 0xE400 ||| fieldAt 0 off9.toNat ∧
      ∃ t, exec (.jc off9) s = .next t ∧ spec (s.psw.getLsbD 3) t) ∧
    (encode (.jnc off9) = 0xE600 ||| fieldAt 0 off9.toNat ∧
      ∃ t, exec (.jnc off9) s = .next t ∧ spec (!s.psw.getLsbD 3) t) ∧
    (encode (.jn off9) = 0xE800 ||| fieldAt 0 off9.toNat ∧
      ∃ t, exec (.jn off9) s = .next t ∧ spec (s.psw.getLsbD 0) t) ∧
    (encode (.jnn off9) = 0xEA00 ||| fieldAt 0 off9.toNat ∧
      ∃ t, exec (.jnn off9) s = .next t ∧ spec (!s.psw.getLsbD 0) t) ∧
    (encode (.jo off9) = 0xEC00 ||| fieldAt 0 off9.toNat ∧
      ∃ t, exec (.jo off9) s = .next t ∧ spec (s.psw.getLsbD 2) t) ∧
    (encode (.jno off9) = 0xEE00 ||| fieldAt 0 off9.toNat ∧
      ∃ t, exec (.jno off9) s = .next t ∧ spec (!s.psw.getLsbD 2) t)

/-- R162 and R163: SET and CLR write PSW bit `idx`. -/
def Obligations.SetClrEffect : Prop :=
  ∀ (idx : Fin 16) (s : State),
    (encode (.set idx) = 0xFE00 ||| fieldAt 0 idx ∧
      ∃ t, exec (.set idx) s = .next t ∧ FlagBitEffect idx.val true s t) ∧
    (encode (.clr idx) = 0xFE10 ||| fieldAt 0 idx ∧
      ∃ t, exec (.clr idx) s = .next t ∧ FlagBitEffect idx.val false s t)

/-- R164 and R165: SET2 and CLR2 write PSW bit `idx + FLAG_BASE_H`, whatever the parameter's value; nothing when
PSW has no such bit. -/
def Obligations.Set2Clr2Effect : Prop :=
  ∀ (idx : Fin 16) (s : State),
    (encode (.set2 idx) = 0xFE20 ||| fieldAt 0 idx ∧
      ∃ t, exec (.set2 idx) s = .next t ∧ FlagBitEffect (idx.val + s.params.flagBaseH.val) true s t) ∧
    (encode (.clr2 idx) = 0xFE30 ||| fieldAt 0 idx ∧
      ∃ t, exec (.clr2 idx) s = .next t ∧ FlagBitEffect (idx.val + s.params.flagBaseH.val) false s t)

/-- R181 and R186: NOP and UNDEF change nothing but pc, and their step answers true. -/
def Obligations.NopAndUndefEffect : Prop :=
  ∀ s : State,
    encode .nop = 0xFFF0 ∧ (∃ t, exec .nop s = .next t ∧ JumpEffect (trunc16 ((s.reg Reg.pc).toNat + 1)) s t) ∧
    (∀ w : Word, ∃ t, exec (.undef w) s = .next t ∧ JumpEffect (trunc16 ((s.reg Reg.pc).toNat + 1)) s t) ∧
    (s.running = true →
      s.memRead (s.reg Reg.pc) = 0xFFF0 ∨ isUnassigned (s.memRead (s.reg Reg.pc)) = true →
      stepContinue s = true)

/-- R182 and R185: both HALT words stop the core and change nothing else; the step answers false, and so does
every further one, which does nothing. -/
def Obligations.HaltStopsAndKeepsPc : Prop :=
  ∀ s : State,
    encode .halt = 0xFFF1 ∧ encode .haltOnes = 0xFFFF ∧
    (∃ t, exec .halt s = .next t ∧ HaltEffect s t ∧ step t = .next t ∧ stepContinue t = false) ∧
    (∃ t, exec .haltOnes s = .next t ∧ HaltEffect s t ∧ step t = .next t ∧ stepContinue t = false) ∧
    (s.memRead (s.reg Reg.pc) = 0xFFF1 ∨ s.memRead (s.reg Reg.pc) = 0xFFFF → stepContinue s = false)

/-- R183: SWI saves PSW, the return address and CS, sets S and goes to the vector. -/
def Obligations.SwiEffect : Prop :=
  encode .swi = 0xFFF2 ∧ ∀ s : State, ∃ t, exec .swi s = .next t ∧
    t.pswShadow = s.psw ∧ t.pcShadow = trunc16 ((s.reg Reg.pc).toNat + 1) ∧ t.csShadow = s.cs ∧
    (∀ j, j < 16 → t.psw.getLsbD j = if j = 5 then true else s.psw.getLsbD j) ∧
    GoesTo s.params.swiVector s t ∧ SegmentsKept s t ∧ ControlKept s t ∧ MemoryKept s t

/-- R184: RETI restores PSW, CS and pc and leaves the shadow registers as they are, in either context. -/
def Obligations.RetiEffect : Prop :=
  encode .reti = 0xFFF3 ∧ ∀ s : State, ∃ t, exec .reti s = .next t ∧
    t.psw = s.pswShadow ∧ t.cs = s.csShadow ∧ GoesTo s.pcShadow s t ∧
    t.ds = s.ds ∧ t.ss = s.ss ∧ t.es = s.es ∧ ShadowsKept s t ∧ ControlKept s t ∧ MemoryKept s t

/-! What the instructions give together. -/

/-- Three instances of R16: a sequential pc at the top and a branch target past either end wrap. (For every state
and target the wrap is in `NopAndUndefEffect` and `BranchEffect`.) -/
def Obligations.PcWrapsAtTheTop : Prop :=
  ∀ s : State,
    (∃ t, exec .nop (s.setPc 0xFFFF) = .next t ∧ t.reg Reg.pc = 0x0000) ∧
    (∃ t, exec (.jz 5) ((s.setPsw 0x0002).setPc 0xFFFE) = .next t ∧ t.reg Reg.pc = 0x0004) ∧
    (∃ t, exec (.jz 0x1FC) ((s.setPsw 0x0002).setPc 0x0001) = .next t ∧ t.reg Reg.pc = 0xFFFE)

/-- V after ADD says exactly that the signed sum does not fit 16 bits (R108). -/
def Obligations.AddOverflowIsSignedOverflow : Prop :=
  ∀ (rd rs : Reg) (s : State), ∃ t, exec (.addReg rd rs) s = .next t ∧
    (t.flagV = true ↔ ¬ (-32768 ≤ (s.reg rd).toInt + (s.reg rs).toInt ∧
      (s.reg rd).toInt + (s.reg rs).toInt ≤ 32767))

/-- After SUB, Z tests equality, C unsigned less-than, and N differing from V signed less-than (R104, R108). -/
def Obligations.SubComparesItsOperands : Prop :=
  ∀ (rd rs : Reg) (s : State), ∃ t, exec (.subReg rd rs) s = .next t ∧
    (t.flagZ = true ↔ s.reg rd = s.reg rs) ∧ (t.flagC = true ↔ (s.reg rd).toNat < (s.reg rs).toNat) ∧
    (t.flagN ≠ t.flagV ↔ (s.reg rd).toInt < (s.reg rs).toInt)

/-- R108: ADD of `b` and then SUB of the same `b` gives the register back, in the immediate form and with another
register. -/
def Obligations.AddThenSubRestores : Prop :=
  ∀ (rd : Reg) (s : State), rd ≠ Reg.pc →
    (∀ imm4 : BitVec 4, ∃ t u, exec (.addImm rd imm4) s = .next t ∧ exec (.subImm rd imm4) t = .next u ∧
      u.reg rd = s.reg rd) ∧
    (∀ rs : Reg, rs ≠ rd → rs ≠ Reg.pc → ∃ t u, exec (.addReg rd rs) s = .next t ∧
      exec (.subReg rd rs) t = .next u ∧ u.reg rd = s.reg rd)

/-- The idiom of R86 and R195: LDI, SL and OR build any 16-bit constant in register 0. -/
def Obligations.ConstantIdiomBuildsAnyWord : Prop :=
  ∀ (k : Word) (s : State), ∃ t u v,
    exec (.ldi (k.extractLsb' 3 13)) s = .next t ∧ exec (.sl 0 3) t = .next u ∧
      exec (.orImm 0 (k.extractLsb' 0 3 |>.setWidth 4)) u = .next v ∧ v.reg 0 = k ∧
      ∀ q, q ≠ 0 → q ≠ Reg.pc → v.reg q = s.reg q

/-- The idiom of R86: JZ then JNZ to one target is an unconditional relative jump. -/
def Obligations.ComplementaryBranchesJump : Prop :=
  ∀ (s : State) (target : Word) (off off' : BitVec 9),
    target = trunc16 ((s.reg Reg.pc).toNat + 1 + off.toInt) →
    target = trunc16 ((s.reg Reg.pc).toNat + 2 + off'.toInt) →
    ∃ t, exec (.jz off) s = .next t ∧
      (t.reg Reg.pc = target ∨
        t.reg Reg.pc = trunc16 ((s.reg Reg.pc).toNat + 1) ∧ ∃ u, exec (.jnz off') t = .next u ∧ u.reg Reg.pc = target)

/-- R14 and R150: `MOV LR, PC, 2` at an address puts the address two words on in LR. -/
def Obligations.CallIdiomLinksReturnAddress : Prop :=
  ∀ s : State, s.running = true → s.memRead (s.reg Reg.pc) = 0xFBBE →
    ∃ t, step s = .next t ∧ RegisterEffect Reg.lr (trunc16 ((s.reg Reg.pc).toNat + 2)) s t

/-- With the default `FLAG_BASE_H`, SET2 and CLR2 of `k` up to 11 act as SET and CLR of `k + 4`, and from 12 on
they change PSW in nothing (R161, R164, R165). -/
def Obligations.HighGroupIsShiftedLowGroup : Prop :=
  ∀ (s : State) (k : Fin 16), s.params.flagBaseH = 4 →
    (k.val ≤ 11 → exec (.set2 k) s = exec (.set (k + 4)) s ∧ exec (.clr2 k) s = exec (.clr (k + 4)) s) ∧
    (12 ≤ k.val → (∃ t, exec (.set2 k) s = .next t ∧ t.psw = s.psw) ∧
      ∃ t, exec (.clr2 k) s = .next t ∧ t.psw = s.psw)

/-- R208 and R209: SWI followed at once by the RETI at its vector restores PSW and CS and goes on after the SWI. -/
def Obligations.SwiThenRetiRestores : Prop :=
  ∀ s : State, s.running = true → s.memRead (s.reg Reg.pc) = 0xFFF2 → s.memRead s.params.swiVector = 0xFFF3 →
    ∃ t u, step s = .next t ∧ step t = .next u ∧ u.psw = s.psw ∧ SegmentsKept s u ∧ ControlKept s u ∧
      GoesOn s u ∧ MemoryKept s u

/-- R212: a SWI in a handler (S = 1), whatever the shadow registers hold, overwrites their one level; the saved PSW
then has S, the core goes on in the handler with S after the inner RETI, and the outer RETI goes to the inner
return point again. -/
def Obligations.NestedSwiKeepsInnerReturnOnly : Prop :=
  ∀ t : State, t.psw.getLsbD 5 = true → ∃ u v w, exec .swi t = .next u ∧ exec .reti u = .next v ∧
    exec .reti v = .next w ∧ u.pcShadow = trunc16 ((t.reg Reg.pc).toNat + 1) ∧ u.pswShadow = t.psw ∧
    u.csShadow = t.cs ∧ u.pswShadow.getLsbD 5 = true ∧ v.psw.getLsbD 5 = true ∧
    v.reg Reg.pc = u.pcShadow ∧ w.reg Reg.pc = u.pcShadow

/-- R53: a word stored over the next instruction is the one the very next step executes. -/
def Obligations.StoreIsSeenByNextFetch : Prop :=
  ∀ (s : State) (rd rb : Reg) (off5 : BitVec 5), s.running = true →
    decode (s.memRead (s.reg Reg.pc)) = .st rd rb off5 →
    trunc16 ((s.reg rb).toNat + off5.toInt) = trunc16 ((s.reg Reg.pc).toNat + 1) →
    ∃ t, step s = .next t ∧ step t = exec (decode (s.reg rd)) t

/-! Rules of the whole machine, over every instruction. -/

/-- Only a store changes memory, and it changes one word (R47, R132). -/
def Obligations.OnlyStoreChangesMemory : Prop :=
  ∀ s : State, ∃ t, step s = .next t ∧
    (MemoryKept s t ∨ ∃ (rd rb : Reg) (off5 : BitVec 5), s.running = true ∧
      decode (s.memRead (s.reg Reg.pc)) = .st rd rb off5 ∧
      StoredOnly (trunc16 ((s.reg rb).toNat + off5.toInt)) (s.reg rd) s t)

/-- R22 and R23: a step never changes DS, SS or ES; CS changes only at the word of RETI and the shadow registers
only at that of SWI. -/
def Obligations.SystemRegistersHaveTheirOneWriter : Prop :=
  ∀ s : State, ∃ t, step s = .next t ∧ t.ds = s.ds ∧ t.ss = s.ss ∧ t.es = s.es ∧
    (t.cs ≠ s.cs → s.memRead (s.reg Reg.pc) = 0xFFF3) ∧
    (¬ ShadowsKept s t → s.memRead (s.reg Reg.pc) = 0xFFF2)

/-- R18 to R21: which words change which bits of PSW. Bits 6 to 15 and bit 4: the flag space and RETI; bit 5: SWI
too; N Z V C: the ALU and shift spaces, the flag space and RETI. -/
def Obligations.PswBitsHaveTheirWriters : Prop :=
  ∀ s : State, ∃ t, step s = .next t ∧ ∀ j, j < 16 → t.psw.getLsbD j ≠ s.psw.getLsbD j →
    let n := (s.memRead (s.reg Reg.pc)).toNat
    (0xFE00 ≤ n ∧ n ≤ 0xFE3F) ∨ n = 0xFFF3 ∨ (j = 5 ∧ n = 0xFFF2) ∨
      (j ≤ 3 ∧ ((0xC000 ≤ n ∧ n ≤ 0xC9FF) ∨ (0xD000 ≤ n ∧ n ≤ 0xD3FF)))

/-- Every step keeps the memory in canonical form. -/
def Obligations.StepKeepsMemoryCanonical : Prop :=
  ∀ s t : State, MemoryCanonical s → step s = .next t → MemoryCanonical t

/-- Every step keeps the segment registers and CS' at zero (R22, R23, R30). -/
def Obligations.StepKeepsSegmentsZero : Prop :=
  ∀ s t : State, SegmentsZero s → step s = .next t → SegmentsZero t

/-- Both invariants hold right after reset, when nothing is listed (the form of the list is the model's, log 1). -/
def Obligations.ResetMeetsTheInvariants : Prop :=
  MemoryCanonical State.reset ∧ SegmentsZero State.reset ∧
    ∀ s : State, MemoryCanonical s → MemoryCanonical s.resetEvent ∧ SegmentsZero s.resetEvent

/-- Whatever program a host loads over whatever canonical launch image, and however it resets and steps the core, the
memory stays canonical, the segment registers stay zero and the parameters stay as they were (R22, R26, R236). -/
def Obligations.HostSessionsKeepTheInvariants : Prop :=
  ∀ (p : Config.Params) (image : Memory) (events : List HostEvent) (c : Session), image.wf = true →
    Session.run events (Session.powerOn p image) = .next c →
    MemoryCanonical c.state ∧ SegmentsZero c.state ∧ c.state.params = p

/-- R45: no program can observe in which order a host keeps the two halves of a word. -/
def Obligations.ByteOrderIsUnobservable : Prop :=
  ∀ s s' t : State, SameButByteOrder s s' → step s = .next t → ∃ t', step s' = .next t' ∧ SameButByteOrder t t'

/-- PSW bits 4 to 15 and the segment registers affect nothing: two states that differ only in them stay so (R19,
R20, R22, R214). -/
def Obligations.DescriptiveStateIsInert : Prop :=
  ∀ s s' t : State, SameButDescriptive s s' → step s = .next t →
    ∃ t', step s' = .next t' ∧ SameButDescriptive t t'
end

