-- ==== Sys2Proof/Laws/Asm.lean ====
section
/-! SUPPORT. What the assembler's encode function does, said once: which form each mnemonic selects, and which
tokens name a register or a number. -/

namespace Sys2Proof.Laws.Asm

open Sys2Proof.Safety

variable (labels : Labels) (addr : Word) (ops : List Token)

/-! The form of each mnemonic (`30_encoding.md` R84). -/

theorem assemble_ldi : assemble labels addr "LDI" ops = asmLdi labels ops := rfl
theorem assemble_ld : assemble labels addr "LD" ops = asmMemory labels .ld ops := rfl
theorem assemble_st : assemble labels addr "ST" ops = asmMemory labels .st ops := rfl
theorem assemble_add : assemble labels addr "ADD" ops = asmAlu labels .addReg .addImm ops := rfl
theorem assemble_sub : assemble labels addr "SUB" ops = asmAlu labels .subReg .subImm ops := rfl
theorem assemble_and : assemble labels addr "AND" ops = asmAlu labels .andReg .andImm ops := rfl
theorem assemble_or : assemble labels addr "OR" ops = asmAlu labels .orReg .orImm ops := rfl
theorem assemble_xor : assemble labels addr "XOR" ops = asmAlu labels .xorReg .xorImm ops := rfl
theorem assemble_sl : assemble labels addr "SL" ops = asmShift labels .sl ops := rfl
theorem assemble_sr : assemble labels addr "SR" ops = asmShift labels .sr ops := rfl
theorem assemble_sra : assemble labels addr "SRA" ops = asmShift labels .sra ops := rfl
theorem assemble_ror : assemble labels addr "ROR" ops = asmShift labels .ror ops := rfl
theorem assemble_jz : assemble labels addr "JZ" ops = asmBranch labels addr .jz ops := rfl
theorem assemble_jnz : assemble labels addr "JNZ" ops = asmBranch labels addr .jnz ops := rfl
theorem assemble_jc : assemble labels addr "JC" ops = asmBranch labels addr .jc ops := rfl
theorem assemble_jnc : assemble labels addr "JNC" ops = asmBranch labels addr .jnc ops := rfl
theorem assemble_jn : assemble labels addr "JN" ops = asmBranch labels addr .jn ops := rfl
theorem assemble_jnn : assemble labels addr "JNN" ops = asmBranch labels addr .jnn ops := rfl
theorem assemble_jo : assemble labels addr "JO" ops = asmBranch labels addr .jo ops := rfl
theorem assemble_jno : assemble labels addr "JNO" ops = asmBranch labels addr .jno ops := rfl
theorem assemble_mov : assemble labels addr "MOV" ops = asmMov labels ops := rfl
theorem assemble_lsi : assemble labels addr "LSI" ops = asmLsi labels ops := rfl
theorem assemble_set : assemble labels addr "SET" ops = asmFlag labels .set ops := rfl
theorem assemble_clr : assemble labels addr "CLR" ops = asmFlag labels .clr ops := rfl
theorem assemble_set2 : assemble labels addr "SET2" ops = asmFlag labels .set2 ops := rfl
theorem assemble_clr2 : assemble labels addr "CLR2" ops = asmFlag labels .clr2 ops := rfl
theorem assemble_nop : assemble labels addr "NOP" ops = asmNone .nop ops := rfl
theorem assemble_halt : assemble labels addr "HALT" ops = asmNone .halt ops := rfl
theorem assemble_swi : assemble labels addr "SWI" ops = asmNone .swi ops := rfl
theorem assemble_reti : assemble labels addr "RETI" ops = asmNone .reti ops := rfl

/-! Register operands (R82). -/

/-- A name of a register is read as that register. -/
theorem tokenReg_of_names {t : Token} {r : Reg} (h : NamesRegister t r) : tokenReg t = .ok r := by
  obtain ⟨text, rfl, hx⟩ := h
  simp only [tokenReg, hx]
  fin_cases r <;> rfl

/-- Any other token is an unknown register. -/
theorem tokenReg_of_not_names {t : Token} (h : ∀ r, ¬ NamesRegister t r) :
    tokenReg t = .error (.unknownRegister t) := by
  cases t with
  | num => rfl
  | literal => rfl
  | name text =>
    have hn : ∀ r, canonText text ≠ regName r := fun r e => h r ⟨text, rfl, e⟩
    simp only [Fin.forall_fin_succ, regName] at hn
    unfold tokenReg
    split <;> simp_all

/-! Numeric operands (R83). -/

/-- A number is read as its value, whatever the labels. -/
theorem tokenValue_of_names {t : Token} {n : Int} (h : NamesNumber t n) : tokenValue labels t = .ok n := by
  obtain rfl | ⟨text, rfl, hx⟩ := h
  · rfl
  · simp only [tokenValue, hx]

/-- A literal that is no number is an invalid immediate (R78). -/
theorem tokenValue_of_unparsable {text : String} (h : literalValue text = none) :
    tokenValue labels (.literal text) = .error (.invalidImmediate (.literal text)) := by
  simp only [tokenValue, h]

/-- A number names no register. -/
theorem tokenReg_of_number {t : Token} {n : Int} (h : NamesNumber t n) : tokenReg t = .error (.unknownRegister t) := by
  obtain rfl | ⟨text, rfl, _⟩ := h <;> rfl

/-! How the error of a step of the assembler ends it. -/

@[simp] theorem ok_bind {α β : Type} (a : α) (f : α → Except EncodingError β) : (Except.ok a >>= f) = f a := rfl
@[simp] theorem error_bind {α β : Type} (e : EncodingError) (f : α → Except EncodingError β) :
    ((Except.error e : Except EncodingError α) >>= f) = .error e := rfl

end Sys2Proof.Laws.Asm
end

