-- ==== Sys2Proof/Laws/Codec.lean ====
section
/-! SUPPORT. Small lemmas of the codec: fields read as numbers, and placed fields read back bit by bit. -/

namespace Sys2Proof

/-- A field of a word as a number. -/
theorem extract_toNat (w : Word) (lo len : Nat) :
    (w.extractLsb' lo len).toNat = w.toNat / 2 ^ lo % 2 ^ len := by
  simp [BitVec.extractLsb'_toNat, Nat.shiftRight_eq_div_pow]

/-- A word keeps its value through the two bytes of a host's layout (`20_memory.md` R45). -/
theorem decodeBytes_of_word (o : Config.ByteOrder) (w : Word) (rest : List Byte) :
    decodeBytes o (firstByte o w :: secondByte o w :: rest)
      = .ok (decode (wordOfBytes o (firstByte o w) (secondByte o w)), rest) := rfl

/-- A mask of the top bits of a word keeps the number above them. -/
theorem and_topMask {w mask : Word} {k : Nat} (hk : k ≤ 16) (hm : mask.toNat = 65536 - 2 ^ k) :
    (w &&& mask).toNat = w.toNat / 2 ^ k * 2 ^ k := by
  have hw : w.toNat < 2 ^ 16 := w.isLt
  have h : 65536 - 2 ^ k = (2 ^ 16 - 1) ^^^ (2 ^ k - 1) := by interval_cases k <;> rfl
  rw [BitVec.toNat_and, hm, h]
  apply Nat.eq_of_testBit_eq
  intro i
  rw [Nat.testBit_and, Nat.testBit_xor, Nat.testBit_two_pow_sub_one, Nat.testBit_two_pow_sub_one,
    ← Nat.shiftLeft_eq, ← Nat.shiftRight_eq_div_pow, Nat.testBit_shiftLeft, Nat.testBit_shiftRight]
  by_cases h1 : k ≤ i
  · have h2 : k + (i - k) = i := by omega
    by_cases h3 : i < 16
    · have : ¬ i < k := by omega
      simp [*]
    · have : w.toNat.testBit i = false :=
        Nat.testBit_lt_two_pow (lt_of_lt_of_le hw (Nat.pow_le_pow_right (by omega) (by omega)))
      simp [*]
  · have : i < k := by omega
    have : i < 16 := by omega
    simp [*]

end Sys2Proof
end

