-- ==== Sys2Proof/Laws/State.lean ====
section
/-! SUPPORT. What each named update of the state does to each field: one lemma per field per update. -/

namespace Sys2Proof.Machine

variable (s : State)

/-! `setReg` -/

@[simp] theorem setReg_psw (r : Reg) (v : Word) : (s.setReg r v).psw = s.psw := rfl
@[simp] theorem setReg_cs (r : Reg) (v : Word) : (s.setReg r v).cs = s.cs := rfl
@[simp] theorem setReg_ds (r : Reg) (v : Word) : (s.setReg r v).ds = s.ds := rfl
@[simp] theorem setReg_ss (r : Reg) (v : Word) : (s.setReg r v).ss = s.ss := rfl
@[simp] theorem setReg_es (r : Reg) (v : Word) : (s.setReg r v).es = s.es := rfl
@[simp] theorem setReg_pswShadow (r : Reg) (v : Word) : (s.setReg r v).pswShadow = s.pswShadow := rfl
@[simp] theorem setReg_pcShadow (r : Reg) (v : Word) : (s.setReg r v).pcShadow = s.pcShadow := rfl
@[simp] theorem setReg_csShadow (r : Reg) (v : Word) : (s.setReg r v).csShadow = s.csShadow := rfl
@[simp] theorem setReg_running (r : Reg) (v : Word) : (s.setReg r v).running = s.running := rfl
@[simp] theorem setReg_mem (r : Reg) (v : Word) : (s.setReg r v).mem = s.mem := rfl
@[simp] theorem setReg_params (r : Reg) (v : Word) : (s.setReg r v).params = s.params := rfl

/-! `setPc` -/

@[simp] theorem setPc_psw (v : Word) : (s.setPc v).psw = s.psw := rfl
@[simp] theorem setPc_cs (v : Word) : (s.setPc v).cs = s.cs := rfl
@[simp] theorem setPc_ds (v : Word) : (s.setPc v).ds = s.ds := rfl
@[simp] theorem setPc_ss (v : Word) : (s.setPc v).ss = s.ss := rfl
@[simp] theorem setPc_es (v : Word) : (s.setPc v).es = s.es := rfl
@[simp] theorem setPc_pswShadow (v : Word) : (s.setPc v).pswShadow = s.pswShadow := rfl
@[simp] theorem setPc_pcShadow (v : Word) : (s.setPc v).pcShadow = s.pcShadow := rfl
@[simp] theorem setPc_csShadow (v : Word) : (s.setPc v).csShadow = s.csShadow := rfl
@[simp] theorem setPc_running (v : Word) : (s.setPc v).running = s.running := rfl
@[simp] theorem setPc_mem (v : Word) : (s.setPc v).mem = s.mem := rfl
@[simp] theorem setPc_params (v : Word) : (s.setPc v).params = s.params := rfl

/-! `setPsw` -/

@[simp] theorem setPsw_psw (v : Word) : (s.setPsw v).psw = v := rfl
@[simp] theorem setPsw_cs (v : Word) : (s.setPsw v).cs = s.cs := rfl
@[simp] theorem setPsw_ds (v : Word) : (s.setPsw v).ds = s.ds := rfl
@[simp] theorem setPsw_ss (v : Word) : (s.setPsw v).ss = s.ss := rfl
@[simp] theorem setPsw_es (v : Word) : (s.setPsw v).es = s.es := rfl
@[simp] theorem setPsw_pswShadow (v : Word) : (s.setPsw v).pswShadow = s.pswShadow := rfl
@[simp] theorem setPsw_pcShadow (v : Word) : (s.setPsw v).pcShadow = s.pcShadow := rfl
@[simp] theorem setPsw_csShadow (v : Word) : (s.setPsw v).csShadow = s.csShadow := rfl
@[simp] theorem setPsw_running (v : Word) : (s.setPsw v).running = s.running := rfl
@[simp] theorem setPsw_mem (v : Word) : (s.setPsw v).mem = s.mem := rfl
@[simp] theorem setPsw_params (v : Word) : (s.setPsw v).params = s.params := rfl

/-! `memWrite` -/

@[simp] theorem memWrite_psw (a v : Word) : (s.memWrite a v).psw = s.psw := rfl
@[simp] theorem memWrite_cs (a v : Word) : (s.memWrite a v).cs = s.cs := rfl
@[simp] theorem memWrite_ds (a v : Word) : (s.memWrite a v).ds = s.ds := rfl
@[simp] theorem memWrite_ss (a v : Word) : (s.memWrite a v).ss = s.ss := rfl
@[simp] theorem memWrite_es (a v : Word) : (s.memWrite a v).es = s.es := rfl
@[simp] theorem memWrite_pswShadow (a v : Word) : (s.memWrite a v).pswShadow = s.pswShadow := rfl
@[simp] theorem memWrite_pcShadow (a v : Word) : (s.memWrite a v).pcShadow = s.pcShadow := rfl
@[simp] theorem memWrite_csShadow (a v : Word) : (s.memWrite a v).csShadow = s.csShadow := rfl
@[simp] theorem memWrite_running (a v : Word) : (s.memWrite a v).running = s.running := rfl
@[simp] theorem memWrite_mem (a v : Word) : (s.memWrite a v).mem = Memory.writeWord s.params.hostByteOrder s.mem a v := rfl
@[simp] theorem memWrite_params (a v : Word) : (s.memWrite a v).params = s.params := rfl

/-! `advance` -/

@[simp] theorem advance_psw : s.advance.psw = s.psw := rfl
@[simp] theorem advance_cs : s.advance.cs = s.cs := rfl
@[simp] theorem advance_ds : s.advance.ds = s.ds := rfl
@[simp] theorem advance_ss : s.advance.ss = s.ss := rfl
@[simp] theorem advance_es : s.advance.es = s.es := rfl
@[simp] theorem advance_pswShadow : s.advance.pswShadow = s.pswShadow := rfl
@[simp] theorem advance_pcShadow : s.advance.pcShadow = s.pcShadow := rfl
@[simp] theorem advance_csShadow : s.advance.csShadow = s.csShadow := rfl
@[simp] theorem advance_running : s.advance.running = s.running := rfl
@[simp] theorem advance_mem : s.advance.mem = s.mem := rfl
@[simp] theorem advance_params : s.advance.params = s.params := rfl

/-! `writeDest` -/

@[simp] theorem writeDest_psw (rd : Reg) (v : Word) : (s.writeDest rd v).psw = s.psw := rfl
@[simp] theorem writeDest_cs (rd : Reg) (v : Word) : (s.writeDest rd v).cs = s.cs := rfl
@[simp] theorem writeDest_ds (rd : Reg) (v : Word) : (s.writeDest rd v).ds = s.ds := rfl
@[simp] theorem writeDest_ss (rd : Reg) (v : Word) : (s.writeDest rd v).ss = s.ss := rfl
@[simp] theorem writeDest_es (rd : Reg) (v : Word) : (s.writeDest rd v).es = s.es := rfl
@[simp] theorem writeDest_pswShadow (rd : Reg) (v : Word) : (s.writeDest rd v).pswShadow = s.pswShadow := rfl
@[simp] theorem writeDest_pcShadow (rd : Reg) (v : Word) : (s.writeDest rd v).pcShadow = s.pcShadow := rfl
@[simp] theorem writeDest_csShadow (rd : Reg) (v : Word) : (s.writeDest rd v).csShadow = s.csShadow := rfl
@[simp] theorem writeDest_running (rd : Reg) (v : Word) : (s.writeDest rd v).running = s.running := rfl
@[simp] theorem writeDest_mem (rd : Reg) (v : Word) : (s.writeDest rd v).mem = s.mem := rfl
@[simp] theorem writeDest_params (rd : Reg) (v : Word) : (s.writeDest rd v).params = s.params := rfl

/-! `writeResult` -/

@[simp] theorem writeResult_psw (rd : Reg) (r : AluResult) : (s.writeResult rd r).psw = pswWithFlags s.psw r.value.msb (r.value == 0) r.overflow r.carry := rfl
@[simp] theorem writeResult_cs (rd : Reg) (r : AluResult) : (s.writeResult rd r).cs = s.cs := rfl
@[simp] theorem writeResult_ds (rd : Reg) (r : AluResult) : (s.writeResult rd r).ds = s.ds := rfl
@[simp] theorem writeResult_ss (rd : Reg) (r : AluResult) : (s.writeResult rd r).ss = s.ss := rfl
@[simp] theorem writeResult_es (rd : Reg) (r : AluResult) : (s.writeResult rd r).es = s.es := rfl
@[simp] theorem writeResult_pswShadow (rd : Reg) (r : AluResult) : (s.writeResult rd r).pswShadow = s.pswShadow := rfl
@[simp] theorem writeResult_pcShadow (rd : Reg) (r : AluResult) : (s.writeResult rd r).pcShadow = s.pcShadow := rfl
@[simp] theorem writeResult_csShadow (rd : Reg) (r : AluResult) : (s.writeResult rd r).csShadow = s.csShadow := rfl
@[simp] theorem writeResult_running (rd : Reg) (r : AluResult) : (s.writeResult rd r).running = s.running := rfl
@[simp] theorem writeResult_mem (rd : Reg) (r : AluResult) : (s.writeResult rd r).mem = s.mem := rfl
@[simp] theorem writeResult_params (rd : Reg) (r : AluResult) : (s.writeResult rd r).params = s.params := rfl

/-! `branch` -/

@[simp] theorem branch_psw (taken : Bool) (off9 : BitVec 9) : (s.branch taken off9).psw = s.psw := rfl
@[simp] theorem branch_cs (taken : Bool) (off9 : BitVec 9) : (s.branch taken off9).cs = s.cs := rfl
@[simp] theorem branch_ds (taken : Bool) (off9 : BitVec 9) : (s.branch taken off9).ds = s.ds := rfl
@[simp] theorem branch_ss (taken : Bool) (off9 : BitVec 9) : (s.branch taken off9).ss = s.ss := rfl
@[simp] theorem branch_es (taken : Bool) (off9 : BitVec 9) : (s.branch taken off9).es = s.es := rfl
@[simp] theorem branch_pswShadow (taken : Bool) (off9 : BitVec 9) : (s.branch taken off9).pswShadow = s.pswShadow := rfl
@[simp] theorem branch_pcShadow (taken : Bool) (off9 : BitVec 9) : (s.branch taken off9).pcShadow = s.pcShadow := rfl
@[simp] theorem branch_csShadow (taken : Bool) (off9 : BitVec 9) : (s.branch taken off9).csShadow = s.csShadow := rfl
@[simp] theorem branch_running (taken : Bool) (off9 : BitVec 9) : (s.branch taken off9).running = s.running := rfl
@[simp] theorem branch_mem (taken : Bool) (off9 : BitVec 9) : (s.branch taken off9).mem = s.mem := rfl
@[simp] theorem branch_params (taken : Bool) (off9 : BitVec 9) : (s.branch taken off9).params = s.params := rfl

/-! `setFlagBits` -/

@[simp] theorem setFlagBits_psw (mask : Word) : (s.setFlagBits mask).psw = s.psw ||| mask := rfl
@[simp] theorem setFlagBits_cs (mask : Word) : (s.setFlagBits mask).cs = s.cs := rfl
@[simp] theorem setFlagBits_ds (mask : Word) : (s.setFlagBits mask).ds = s.ds := rfl
@[simp] theorem setFlagBits_ss (mask : Word) : (s.setFlagBits mask).ss = s.ss := rfl
@[simp] theorem setFlagBits_es (mask : Word) : (s.setFlagBits mask).es = s.es := rfl
@[simp] theorem setFlagBits_pswShadow (mask : Word) : (s.setFlagBits mask).pswShadow = s.pswShadow := rfl
@[simp] theorem setFlagBits_pcShadow (mask : Word) : (s.setFlagBits mask).pcShadow = s.pcShadow := rfl
@[simp] theorem setFlagBits_csShadow (mask : Word) : (s.setFlagBits mask).csShadow = s.csShadow := rfl
@[simp] theorem setFlagBits_running (mask : Word) : (s.setFlagBits mask).running = s.running := rfl
@[simp] theorem setFlagBits_mem (mask : Word) : (s.setFlagBits mask).mem = s.mem := rfl
@[simp] theorem setFlagBits_params (mask : Word) : (s.setFlagBits mask).params = s.params := rfl

/-! `clearFlagBits` -/

@[simp] theorem clearFlagBits_psw (mask : Word) : (s.clearFlagBits mask).psw = s.psw &&& ~~~mask := rfl
@[simp] theorem clearFlagBits_cs (mask : Word) : (s.clearFlagBits mask).cs = s.cs := rfl
@[simp] theorem clearFlagBits_ds (mask : Word) : (s.clearFlagBits mask).ds = s.ds := rfl
@[simp] theorem clearFlagBits_ss (mask : Word) : (s.clearFlagBits mask).ss = s.ss := rfl
@[simp] theorem clearFlagBits_es (mask : Word) : (s.clearFlagBits mask).es = s.es := rfl
@[simp] theorem clearFlagBits_pswShadow (mask : Word) : (s.clearFlagBits mask).pswShadow = s.pswShadow := rfl
@[simp] theorem clearFlagBits_pcShadow (mask : Word) : (s.clearFlagBits mask).pcShadow = s.pcShadow := rfl
@[simp] theorem clearFlagBits_csShadow (mask : Word) : (s.clearFlagBits mask).csShadow = s.csShadow := rfl
@[simp] theorem clearFlagBits_running (mask : Word) : (s.clearFlagBits mask).running = s.running := rfl
@[simp] theorem clearFlagBits_mem (mask : Word) : (s.clearFlagBits mask).mem = s.mem := rfl
@[simp] theorem clearFlagBits_params (mask : Word) : (s.clearFlagBits mask).params = s.params := rfl

/-! `halt` -/

@[simp] theorem halt_psw : s.halt.psw = s.psw := rfl
@[simp] theorem halt_cs : s.halt.cs = s.cs := rfl
@[simp] theorem halt_ds : s.halt.ds = s.ds := rfl
@[simp] theorem halt_ss : s.halt.ss = s.ss := rfl
@[simp] theorem halt_es : s.halt.es = s.es := rfl
@[simp] theorem halt_pswShadow : s.halt.pswShadow = s.pswShadow := rfl
@[simp] theorem halt_pcShadow : s.halt.pcShadow = s.pcShadow := rfl
@[simp] theorem halt_csShadow : s.halt.csShadow = s.csShadow := rfl
@[simp] theorem halt_running : s.halt.running = false := rfl
@[simp] theorem halt_mem : s.halt.mem = s.mem := rfl
@[simp] theorem halt_params : s.halt.params = s.params := rfl

/-! `enterContext` -/

@[simp] theorem enterContext_psw (vector : Word) : (s.enterContext vector).psw = pswWithS s.psw := rfl
@[simp] theorem enterContext_cs (vector : Word) : (s.enterContext vector).cs = s.cs := rfl
@[simp] theorem enterContext_ds (vector : Word) : (s.enterContext vector).ds = s.ds := rfl
@[simp] theorem enterContext_ss (vector : Word) : (s.enterContext vector).ss = s.ss := rfl
@[simp] theorem enterContext_es (vector : Word) : (s.enterContext vector).es = s.es := rfl
@[simp] theorem enterContext_pswShadow (vector : Word) : (s.enterContext vector).pswShadow = s.psw := rfl
@[simp] theorem enterContext_pcShadow (vector : Word) : (s.enterContext vector).pcShadow = s.seqPc := rfl
@[simp] theorem enterContext_csShadow (vector : Word) : (s.enterContext vector).csShadow = s.cs := rfl
@[simp] theorem enterContext_running (vector : Word) : (s.enterContext vector).running = s.running := rfl
@[simp] theorem enterContext_mem (vector : Word) : (s.enterContext vector).mem = s.mem := rfl
@[simp] theorem enterContext_params (vector : Word) : (s.enterContext vector).params = s.params := rfl

/-! `leaveContext` -/

@[simp] theorem leaveContext_psw : s.leaveContext.psw = s.pswShadow := rfl
@[simp] theorem leaveContext_cs : s.leaveContext.cs = s.csShadow := rfl
@[simp] theorem leaveContext_ds : s.leaveContext.ds = s.ds := rfl
@[simp] theorem leaveContext_ss : s.leaveContext.ss = s.ss := rfl
@[simp] theorem leaveContext_es : s.leaveContext.es = s.es := rfl
@[simp] theorem leaveContext_pswShadow : s.leaveContext.pswShadow = s.pswShadow := rfl
@[simp] theorem leaveContext_pcShadow : s.leaveContext.pcShadow = s.pcShadow := rfl
@[simp] theorem leaveContext_csShadow : s.leaveContext.csShadow = s.csShadow := rfl
@[simp] theorem leaveContext_running : s.leaveContext.running = s.running := rfl
@[simp] theorem leaveContext_mem : s.leaveContext.mem = s.mem := rfl
@[simp] theorem leaveContext_params : s.leaveContext.params = s.params := rfl

/-! `resetEvent` -/

@[simp] theorem resetEvent_psw : s.resetEvent.psw = 0x0000 := rfl
@[simp] theorem resetEvent_cs : s.resetEvent.cs = 0x0000 := rfl
@[simp] theorem resetEvent_ds : s.resetEvent.ds = 0x0000 := rfl
@[simp] theorem resetEvent_ss : s.resetEvent.ss = 0x0000 := rfl
@[simp] theorem resetEvent_es : s.resetEvent.es = 0x0000 := rfl
@[simp] theorem resetEvent_pswShadow : s.resetEvent.pswShadow = 0x0000 := rfl
@[simp] theorem resetEvent_pcShadow : s.resetEvent.pcShadow = 0x0000 := rfl
@[simp] theorem resetEvent_csShadow : s.resetEvent.csShadow = 0x0000 := rfl
@[simp] theorem resetEvent_running : s.resetEvent.running = true := rfl
@[simp] theorem resetEvent_mem : s.resetEvent.mem = s.mem := rfl
@[simp] theorem resetEvent_params : s.resetEvent.params = s.params := rfl

/-! Registers through the updates. -/

@[simp] theorem setReg_reg_same (r : Reg) (v : Word) : (s.setReg r v).reg r = v := by
  simp [State.reg, State.setReg]

theorem setReg_reg_other {r q : Reg} (h : q ≠ r) (v : Word) : (s.setReg r v).reg q = s.reg q := by
  have h' : (r : Nat) ≠ (q : Nat) := fun e => h (Fin.ext e.symm)
  simp [State.reg, State.setReg, h']

/-- Register 15 and the program counter are one cell (`10_state.md` R13). -/
@[simp] theorem setPc_pc (v : Word) : (s.setPc v).pc = v := setReg_reg_same s Reg.pc v

theorem setPc_reg_other {q : Reg} (h : q ≠ Reg.pc) (v : Word) : (s.setPc v).reg q = s.reg q :=
  setReg_reg_other s h v

@[simp] theorem setPsw_reg (v : Word) (r : Reg) : (s.setPsw v).reg r = s.reg r := rfl
@[simp] theorem setPsw_pc (v : Word) : (s.setPsw v).pc = s.pc := rfl
@[simp] theorem memWrite_reg (a v : Word) (r : Reg) : (s.memWrite a v).reg r = s.reg r := rfl
@[simp] theorem memWrite_pc (a v : Word) : (s.memWrite a v).pc = s.pc := rfl

/-! Reading memory through an update that leaves memory alone. -/

@[simp] theorem setReg_memRead (r : Reg) (v a : Word) : (s.setReg r v).memRead a = s.memRead a := rfl
@[simp] theorem setPc_memRead (v a : Word) : (s.setPc v).memRead a = s.memRead a := rfl
@[simp] theorem setPsw_memRead (v a : Word) : (s.setPsw v).memRead a = s.memRead a := rfl
@[simp] theorem advance_memRead (a : Word) : s.advance.memRead a = s.memRead a := rfl
@[simp] theorem writeDest_memRead (rd : Reg) (v a : Word) : (s.writeDest rd v).memRead a = s.memRead a := rfl
@[simp] theorem writeResult_memRead (rd : Reg) (r : AluResult) (a : Word) :
    (s.writeResult rd r).memRead a = s.memRead a := rfl
@[simp] theorem enterContext_memRead (v a : Word) : (s.enterContext v).memRead a = s.memRead a := rfl
@[simp] theorem leaveContext_memRead (a : Word) : s.leaveContext.memRead a = s.memRead a := rfl
@[simp] theorem branch_memRead (taken : Bool) (off9 : BitVec 9) (a : Word) :
    (s.branch taken off9).memRead a = s.memRead a := rfl
@[simp] theorem setFlagBits_memRead (mask a : Word) : (s.setFlagBits mask).memRead a = s.memRead a := rfl
@[simp] theorem clearFlagBits_memRead (mask a : Word) : (s.clearFlagBits mask).memRead a = s.memRead a := rfl
@[simp] theorem halt_memRead (a : Word) : s.halt.memRead a = s.memRead a := rfl
@[simp] theorem resetEvent_memRead (a : Word) : s.resetEvent.memRead a = s.memRead a := rfl

@[simp] theorem setReg_byteAt (r : Reg) (v : Word) (k : Nat) : (s.setReg r v).byteAt k = s.byteAt k := rfl
@[simp] theorem setPc_byteAt (v : Word) (k : Nat) : (s.setPc v).byteAt k = s.byteAt k := rfl
@[simp] theorem setPsw_byteAt (v : Word) (k : Nat) : (s.setPsw v).byteAt k = s.byteAt k := rfl
@[simp] theorem advance_byteAt (k : Nat) : s.advance.byteAt k = s.byteAt k := rfl
@[simp] theorem writeDest_byteAt (rd : Reg) (v : Word) (k : Nat) : (s.writeDest rd v).byteAt k = s.byteAt k := rfl
@[simp] theorem writeResult_byteAt (rd : Reg) (r : AluResult) (k : Nat) :
    (s.writeResult rd r).byteAt k = s.byteAt k := rfl
@[simp] theorem branch_byteAt (taken : Bool) (off9 : BitVec 9) (k : Nat) :
    (s.branch taken off9).byteAt k = s.byteAt k := rfl
@[simp] theorem setFlagBits_byteAt (mask : Word) (k : Nat) : (s.setFlagBits mask).byteAt k = s.byteAt k := rfl
@[simp] theorem clearFlagBits_byteAt (mask : Word) (k : Nat) : (s.clearFlagBits mask).byteAt k = s.byteAt k := rfl
@[simp] theorem halt_byteAt (k : Nat) : s.halt.byteAt k = s.byteAt k := rfl
@[simp] theorem enterContext_byteAt (v : Word) (k : Nat) : (s.enterContext v).byteAt k = s.byteAt k := rfl
@[simp] theorem leaveContext_byteAt (k : Nat) : s.leaveContext.byteAt k = s.byteAt k := rfl
@[simp] theorem resetEvent_byteAt (k : Nat) : s.resetEvent.byteAt k = s.byteAt k := rfl

end Sys2Proof.Machine
end

