-- ==== Sys2Proof/Laws/Memory.lean ====
section
/-! SUPPORT. The laws of memory: a read after a write, the bytes a write leaves alone, and the canonical form,
which every memory operation keeps. -/

namespace Sys2Proof.Machine

/-! Bytes. -/

/-- What a byte write does to the list of written bytes: everything it can do. -/
theorem listed_setByte (m : Memory) (a : Nat) (v : Byte) (b : Nat) :
    (m.setByte a v).listed b = if b = a then some v else m.listed b := by
  induction m with
  | nil => rfl
  | cons c rest ih =>
    obtain ⟨k, w⟩ := c
    unfold Memory.setByte
    split
    · rfl
    · split
      · next heq => subst heq; by_cases hb : b = a <;> simp [Memory.listed, hb]
      · next hne => by_cases hb : b = k <;> simp [Memory.listed, ih, hb, Ne.symm hne]

/-- A byte read back after it is written. -/
theorem byteAt_setByte_same (o : Config.ByteOrder) (m : Memory) (a : Nat) (v : Byte) :
    (m.setByte a v).byteAt o a = v := by simp [Memory.byteAt, listed_setByte]

/-- Writing a byte leaves every other byte alone. -/
theorem byteAt_setByte_other (o : Config.ByteOrder) (m : Memory) {a b : Nat} (h : b ≠ a) (v : Byte) :
    (m.setByte a v).byteAt o b = m.byteAt o b := by simp [Memory.byteAt, listed_setByte, h]

/-! Words. -/

@[simp] theorem wordOfBytes_split (o : Config.ByteOrder) (w : Word) :
    wordOfBytes o (firstByte o w) (secondByte o w) = w := by
  have h : (w.extractLsb' 8 8).setWidth 16 <<< 8 ||| (w.extractLsb' 0 8).setWidth 16 = w := by
    apply BitVec.eq_of_getLsbD_eq
    intro i hi
    interval_cases i <;> simp
  cases o <;> exact h

theorem secondByteAddr_ne_first (a b : Word) : secondByteAddr a ≠ firstByteAddr b := by
  unfold secondByteAddr firstByteAddr; omega

theorem byteAddrs_inj {a b : Word} (h : b ≠ a) :
    firstByteAddr b ≠ firstByteAddr a ∧ secondByteAddr b ≠ secondByteAddr a := by
  have : b.toNat ≠ a.toNat := fun e => h (BitVec.eq_of_toNat_eq e)
  unfold firstByteAddr secondByteAddr
  omega

/-- A word read back after it is written, in either byte order (`20_memory.md` R42, R45). -/
theorem readWord_writeWord_same (o : Config.ByteOrder) (m : Memory) (a v : Word) :
    Memory.readWord o (m.writeWord o a v) a = v := by
  unfold Memory.readWord Memory.writeWord
  rw [byteAt_setByte_same, byteAt_setByte_other _ _ (secondByteAddr_ne_first a a).symm,
    byteAt_setByte_same, wordOfBytes_split]

/-- Writing a word leaves every other word alone (`20_memory.md` R42). -/
theorem readWord_writeWord_other (o : Config.ByteOrder) (m : Memory) {a b : Word} (h : b ≠ a) (v : Word) :
    Memory.readWord o (m.writeWord o a v) b = Memory.readWord o m b := by
  obtain ⟨h1, h2⟩ := byteAddrs_inj h
  unfold Memory.readWord Memory.writeWord
  rw [byteAt_setByte_other _ _ (secondByteAddr_ne_first a b).symm, byteAt_setByte_other _ _ h1,
    byteAt_setByte_other _ _ h2, byteAt_setByte_other _ _ (secondByteAddr_ne_first b a)]

/-- A word of which neither byte is listed is that of `MEM_INIT`, in either byte order
(`70_reset_and_hazards.md` R232). -/
theorem readWord_unlisted (o : Config.ByteOrder) {m : Memory} {a : Word} (h1 : m.listed (firstByteAddr a) = none)
    (h2 : m.listed (secondByteAddr a) = none) : Memory.readWord o m a = Config.memInit a := by
  have e1 : 2 * a.toNat / 2 = a.toNat := by omega
  have e2 : (2 * a.toNat + 1) / 2 = a.toNat := by omega
  have e3 : (2 * a.toNat + 1) % 2 = 1 := by omega
  simp only [Memory.readWord, Memory.byteAt, h1, h2, Option.getD_none]
  simp [initialByte, firstByteAddr, secondByteAddr, e1, e2, e3]

@[simp] theorem memWrite_memRead_same (s : State) (a v : Word) : (s.memWrite a v).memRead a = v :=
  readWord_writeWord_same s.params.hostByteOrder s.mem a v

theorem memWrite_memRead_other (s : State) {a b : Word} (h : b ≠ a) (v : Word) :
    (s.memWrite a v).memRead b = s.memRead b :=
  readWord_writeWord_other s.params.hostByteOrder s.mem h v

/-- Every byte outside the two of the written word is left alone. -/
theorem memWrite_byteAt_other (s : State) {a : Word} {k : Nat} (h : k / 2 ≠ a.toNat) (v : Word) :
    (s.memWrite a v).byteAt k = s.byteAt k := by
  have h1 : k ≠ firstByteAddr a := by unfold firstByteAddr; omega
  have h2 : k ≠ secondByteAddr a := by unfold secondByteAddr; omega
  simp only [State.byteAt, memWrite_mem, memWrite_params, Memory.writeWord]
  rw [byteAt_setByte_other _ _ h2, byteAt_setByte_other _ _ h1]

/-! The canonical form. -/

theorem wfFrom_cons {lo k : Nat} {v : Byte} {rest : Memory} :
    Memory.wfFrom lo ((k, v) :: rest) = true ↔
      lo ≤ k ∧ k < memoryBytes ∧ Memory.wfFrom (k + 1) rest = true := by
  simp [Memory.wfFrom, and_assoc]

theorem wfFrom_setByte {lo a : Nat} {m : Memory} {v : Byte} (hm : Memory.wfFrom lo m = true) (hlo : lo ≤ a)
    (ha : a < memoryBytes) : Memory.wfFrom lo (m.setByte a v) = true := by
  induction m generalizing lo with
  | nil => simp [Memory.setByte, Memory.wfFrom, hlo, ha]
  | cons c rest ih =>
    obtain ⟨k, w⟩ := c
    rw [wfFrom_cons] at hm
    obtain ⟨h1, h2, h3⟩ := hm
    unfold Memory.setByte
    split
    · next hak => simp only [wfFrom_cons]; exact ⟨hlo, ha, hak, h2, h3⟩
    · split
      · next heq => subst heq; rw [wfFrom_cons]; exact ⟨h1, ha, h3⟩
      · rw [wfFrom_cons]; exact ⟨h1, h2, ih h3 (by omega)⟩

/-- Writing a byte inside the address space keeps the canonical form. -/
theorem wf_setByte {m : Memory} (hm : m.wf = true) {a : Nat} (ha : a < memoryBytes) (v : Byte) :
    (m.setByte a v).wf = true := wfFrom_setByte hm (Nat.zero_le a) ha

/-- Writing a word keeps the canonical form. -/
theorem wf_writeWord (o : Config.ByteOrder) {m : Memory} (hm : m.wf = true) (a v : Word) :
    (m.writeWord o a v).wf = true := by
  have ha : a.toNat < 65536 := a.isLt
  exact wf_setByte (wf_setByte hm (by unfold firstByteAddr memoryBytes; omega) _)
    (by unfold secondByteAddr memoryBytes; omega) _

/-- The memory of `State.reset` is in canonical form. -/
theorem reset_mem_wf : State.reset.mem.wf = true := rfl

end Sys2Proof.Machine
end

