-- ==== Sys2Proof/Laws/Ops.lean ====
section
/-! SUPPORT. What each shared operation does to the registers and to PSW, and operands as integers, said once. -/

namespace Sys2Proof.Machine

variable (s : State)

/-! Registers. -/

theorem seqPc_eq : s.seqPc = s.reg Reg.pc + 1 := rfl

/-- `advance` moves pc by one word and leaves every other register alone. -/
theorem advance_reg (q : Reg) : s.advance.reg q = if q = Reg.pc then s.seqPc else s.reg q := by
  by_cases h : q = Reg.pc
  · subst h; simp [State.advance, State.setPc]
  · simp [State.advance, h, setPc_reg_other]

@[simp] theorem advance_pc : s.advance.pc = s.seqPc := by simp [State.advance]

/-- A destination write: the destination gets the value; pc, when it is another register, goes on by one; no
other register changes. -/
theorem writeDest_reg (rd : Reg) (v : Word) (q : Reg) :
    (s.writeDest rd v).reg q = if q = rd then v else if q = Reg.pc then s.seqPc else s.reg q := by
  by_cases hq : q = Reg.pc
  · subst hq
    have h : (s.writeDest rd v).reg Reg.pc = if rd = Reg.pc then v else s.seqPc :=
      setPc_pc _ _
    rw [h]
    by_cases hr : rd = Reg.pc
    · simp [hr]
    · simp [hr, Ne.symm hr]
  · by_cases h : q = rd
    · subst h; simp [State.writeDest, setPc_reg_other _ hq]
    · simp [State.writeDest, setPc_reg_other _ hq, setReg_reg_other _ h, h, hq]

/-- Writing a result writes its destination as `writeDest` does. -/
theorem writeResult_reg (rd : Reg) (r : AluResult) (q : Reg) :
    (s.writeResult rd r).reg q = if q = rd then r.value else if q = Reg.pc then s.seqPc else s.reg q :=
  writeDest_reg _ rd r.value q

/-- A branch sets pc and leaves every other register alone. -/
theorem branch_reg (taken : Bool) (off9 : BitVec 9) (q : Reg) :
    (s.branch taken off9).reg q =
      if q = Reg.pc then (if taken then s.branchTarget off9 else s.seqPc) else s.reg q := by
  by_cases h : q = Reg.pc
  · subst h; simp [State.branch, State.setPc]
  · simp [State.branch, h, setPc_reg_other]

theorem setFlagBits_reg (mask : Word) (q : Reg) :
    (s.setFlagBits mask).reg q = if q = Reg.pc then s.seqPc else s.reg q := advance_reg (s.setPsw _) q

theorem clearFlagBits_reg (mask : Word) (q : Reg) :
    (s.clearFlagBits mask).reg q = if q = Reg.pc then s.seqPc else s.reg q := advance_reg (s.setPsw _) q

/-- A halt leaves every register alone, pc with them (`46_system.md` R182). -/
theorem halt_reg (q : Reg) : s.halt.reg q = s.reg q := by
  by_cases h : q = Reg.pc
  · subst h; exact setPc_pc _ _
  · exact setPc_reg_other _ h _

/-- The entry into the privileged context sets pc to the vector and leaves every other register alone. -/
theorem enterContext_reg (vector : Word) (q : Reg) :
    (s.enterContext vector).reg q = if q = Reg.pc then vector else s.reg q := by
  by_cases h : q = Reg.pc
  · subst h; rw [if_pos rfl]; exact setPc_pc _ vector
  · rw [if_neg h]; exact setPc_reg_other _ h _

/-- The return sets pc to PC' and leaves every other register alone. -/
theorem leaveContext_reg (q : Reg) : s.leaveContext.reg q = if q = Reg.pc then s.pcShadow else s.reg q := by
  by_cases h : q = Reg.pc
  · subst h; rw [if_pos rfl]; exact setPc_pc _ s.pcShadow
  · rw [if_neg h]; exact setPc_reg_other _ h _

/-! Operands, as integers modulo 65536. -/

/-- `zext_16` keeps the unsigned value (`00_scope.md` R9). -/
theorem zext16_eq {n : Nat} (v : BitVec n) : zext16 v = BitVec.ofNat 16 v.toNat := by
  simp [zext16, BitVec.ofNat_toNat]

/-- `sext_16` keeps the signed value (`30_encoding.md` R75). -/
theorem sext16_eq {n : Nat} (v : BitVec n) : sext16 v = BitVec.ofInt 16 v.toInt := rfl

/-- The effective address is the sum of base and signed displacement modulo 65536 (`43_load_store.md` R130). -/
theorem effAddr_eq (rb : Reg) (off5 : BitVec 5) :
    s.effAddr rb off5 = BitVec.ofInt 16 ((s.reg rb).toNat + off5.toInt) := by
  rw [BitVec.ofInt_add, BitVec.ofInt_natCast, BitVec.ofNat_toNat, BitVec.setWidth_eq]; rfl

/-- The branch target is the address after the branch plus the signed offset modulo 65536 (`44_branch.md` R140). -/
theorem branchTarget_eq (off9 : BitVec 9) :
    s.branchTarget off9 = BitVec.ofInt 16 ((s.reg Reg.pc).toNat + 1 + off9.toInt) := by
  rw [BitVec.ofInt_add, BitVec.ofInt_add, BitVec.ofInt_natCast, BitVec.ofNat_toNat, BitVec.setWidth_eq]; rfl

/-! PSW. -/

variable (psw : Word) (n z v c : Bool)

theorem pswWithFlags_n : (pswWithFlags psw n z v c).getLsbD 0 = n := by simp [pswWithFlags, place]
theorem pswWithFlags_z : (pswWithFlags psw n z v c).getLsbD 1 = z := by simp [pswWithFlags, place]
theorem pswWithFlags_v : (pswWithFlags psw n z v c).getLsbD 2 = v := by simp [pswWithFlags, place]
theorem pswWithFlags_c : (pswWithFlags psw n z v c).getLsbD 3 = c := by simp [pswWithFlags, place]

/-! The same in the form that `simp` gives a bit at a literal index. -/

@[simp] theorem pswWithFlags_getElem_n : (pswWithFlags psw n z v c)[0] = n := pswWithFlags_n psw n z v c
@[simp] theorem pswWithFlags_getElem_z : (pswWithFlags psw n z v c)[1] = z := pswWithFlags_z psw n z v c
@[simp] theorem pswWithFlags_getElem_v : (pswWithFlags psw n z v c)[2] = v := pswWithFlags_v psw n z v c
@[simp] theorem pswWithFlags_getElem_c : (pswWithFlags psw n z v c)[3] = c := pswWithFlags_c psw n z v c

/-- The flags leave bits 4 to 15 of PSW alone (`41_alu.md` R101). -/
theorem pswWithFlags_upper {i : Nat} (h : 4 ≤ i) (hi : i < 16) :
    (pswWithFlags psw n z v c).getLsbD i = psw.getLsbD i := by
  interval_cases i <;> simp [pswWithFlags, place]

/-- The bits of a flag mask: the one bit `base + idx`, if PSW has it (`45_flag.md` R160). -/
theorem flagMask_getLsbD (base : Nat) (idx : Fin 16) {j : Nat} (hj : j < 16) :
    (flagMask base idx).getLsbD j = decide (j = idx.val + base) := by
  unfold flagMask
  rw [BitVec.getLsbD_ofNat, Nat.shiftLeft_eq, Nat.shiftLeft_eq, one_mul, ← pow_add, Nat.testBit_two_pow]
  simp [hj, eq_comm]

/-- S is set and no other bit of PSW changes (`46_system.md` R183). -/
theorem pswWithS_getLsbD {j : Nat} (hj : j < 16) :
    (pswWithS psw).getLsbD j = if j = 5 then true else psw.getLsbD j := by
  interval_cases j <;> simp [pswWithS]

end Sys2Proof.Machine
end

