-- ==== Sys2Proof/Laws/PerInstr.lean ====
section
/-! SUPPORT. Statements made instruction by instruction: the word an instruction encodes to belongs to a row of
the opcode map under the instruction's own mnemonic (`30_encoding.md` R66). -/

namespace Sys2Proof.Laws.EncodingRow

/-- The encoded word of a well-formed instruction matches a row of the map with its mnemonic. -/
def Statement (i : Instr) : Prop :=
  i.wf = true → ∃ r ∈ opcodeTable, r.mnemonic = i.mnemonic ∧ r.matches (encode i) = true

/-- A row is found by its place in the map. -/
theorem of_row {i : Instr} (k : Fin 53) (hm : (opcodeTable[k]).mnemonic = i.mnemonic)
    (h : encode i &&& (opcodeTable[k]).mask = (opcodeTable[k]).pattern) : Statement i :=
  fun _ => ⟨opcodeTable[k], List.getElem_mem _, hm, by simpa [OpcodeRow.matches] using h⟩

/-- A row whose mask keeps the bits from `k` up matches the words of one range. -/
theorem undef_of_range {w : Word} (j : Fin 53) (k : Nat) (hk : k ≤ 16)
    (hn : (opcodeTable[j]).mnemonic = "UNDEF")
    (hm : (opcodeTable[j]).mask.toNat = 65536 - 2 ^ k)
    (hp : w.toNat / 2 ^ k * 2 ^ k = (opcodeTable[j]).pattern.toNat) : Statement (.undef w) :=
  of_row j hn (BitVec.eq_of_toNat_eq (by rw [encode, and_topMask hk hm, hp]))

theorem ldi (imm13 : BitVec 13) : Statement (.ldi imm13) := by
  refine of_row 0 rfl (?_ : encode _ &&& 0xE000 = 0x0000)
  refine BitVec.eq_of_getLsbD_eq fun i hi => ?_
  interval_cases i <;> simp [encode, encodeI13, place]
theorem ld (rd rb : Reg) (off5 : BitVec 5) : Statement (.ld rd rb off5) := by
  refine of_row 1 rfl (?_ : encode _ &&& 0xE000 = 0x8000)
  refine BitVec.eq_of_getLsbD_eq fun i hi => ?_
  interval_cases i <;> simp [encode, encodeM, placeNibble, place]
theorem st (rd rb : Reg) (off5 : BitVec 5) : Statement (.st rd rb off5) := by
  refine of_row 2 rfl (?_ : encode _ &&& 0xE000 = 0xA000)
  refine BitVec.eq_of_getLsbD_eq fun i hi => ?_
  interval_cases i <;> simp [encode, encodeM, placeNibble, place]
theorem addReg (rd rs : Reg) : Statement (.addReg rd rs) := by
  refine of_row 3 rfl (?_ : encode _ &&& 0xFE10 = 0xC000)
  refine BitVec.eq_of_getLsbD_eq fun i hi => ?_
  interval_cases i <;> simp [encode, encodeAReg, placeNibble, place]
theorem addImm (rd : Reg) (imm4 : BitVec 4) : Statement (.addImm rd imm4) := by
  refine of_row 4 rfl (?_ : encode _ &&& 0xFE10 = 0xC010)
  refine BitVec.eq_of_getLsbD_eq fun i hi => ?_
  interval_cases i <;> simp [encode, encodeAImm, placeNibble, place]
theorem subReg (rd rs : Reg) : Statement (.subReg rd rs) := by
  refine of_row 5 rfl (?_ : encode _ &&& 0xFE10 = 0xC200)
  refine BitVec.eq_of_getLsbD_eq fun i hi => ?_
  interval_cases i <;> simp [encode, encodeAReg, placeNibble, place]
theorem subImm (rd : Reg) (imm4 : BitVec 4) : Statement (.subImm rd imm4) := by
  refine of_row 6 rfl (?_ : encode _ &&& 0xFE10 = 0xC210)
  refine BitVec.eq_of_getLsbD_eq fun i hi => ?_
  interval_cases i <;> simp [encode, encodeAImm, placeNibble, place]
theorem andReg (rd rs : Reg) : Statement (.andReg rd rs) := by
  refine of_row 7 rfl (?_ : encode _ &&& 0xFE10 = 0xC400)
  refine BitVec.eq_of_getLsbD_eq fun i hi => ?_
  interval_cases i <;> simp [encode, encodeAReg, placeNibble, place]
theorem andImm (rd : Reg) (imm4 : BitVec 4) : Statement (.andImm rd imm4) := by
  refine of_row 8 rfl (?_ : encode _ &&& 0xFE10 = 0xC410)
  refine BitVec.eq_of_getLsbD_eq fun i hi => ?_
  interval_cases i <;> simp [encode, encodeAImm, placeNibble, place]
theorem orReg (rd rs : Reg) : Statement (.orReg rd rs) := by
  refine of_row 9 rfl (?_ : encode _ &&& 0xFE10 = 0xC600)
  refine BitVec.eq_of_getLsbD_eq fun i hi => ?_
  interval_cases i <;> simp [encode, encodeAReg, placeNibble, place]
theorem orImm (rd : Reg) (imm4 : BitVec 4) : Statement (.orImm rd imm4) := by
  refine of_row 10 rfl (?_ : encode _ &&& 0xFE10 = 0xC610)
  refine BitVec.eq_of_getLsbD_eq fun i hi => ?_
  interval_cases i <;> simp [encode, encodeAImm, placeNibble, place]
theorem xorReg (rd rs : Reg) : Statement (.xorReg rd rs) := by
  refine of_row 11 rfl (?_ : encode _ &&& 0xFE10 = 0xC800)
  refine BitVec.eq_of_getLsbD_eq fun i hi => ?_
  interval_cases i <;> simp [encode, encodeAReg, placeNibble, place]
theorem xorImm (rd : Reg) (imm4 : BitVec 4) : Statement (.xorImm rd imm4) := by
  refine of_row 12 rfl (?_ : encode _ &&& 0xFE10 = 0xC810)
  refine BitVec.eq_of_getLsbD_eq fun i hi => ?_
  interval_cases i <;> simp [encode, encodeAImm, placeNibble, place]
theorem sl (rd : Reg) (cnt : Fin 16) : Statement (.sl rd cnt) := by
  refine of_row 13 rfl (?_ : encode _ &&& 0xFF00 = 0xD000)
  refine BitVec.eq_of_getLsbD_eq fun i hi => ?_
  interval_cases i <;> simp [encode, encodeSH, placeNibble, place]
theorem sr (rd : Reg) (cnt : Fin 16) : Statement (.sr rd cnt) := by
  refine of_row 14 rfl (?_ : encode _ &&& 0xFF00 = 0xD100)
  refine BitVec.eq_of_getLsbD_eq fun i hi => ?_
  interval_cases i <;> simp [encode, encodeSH, placeNibble, place]
theorem sra (rd : Reg) (cnt : Fin 16) : Statement (.sra rd cnt) := by
  refine of_row 15 rfl (?_ : encode _ &&& 0xFF00 = 0xD200)
  refine BitVec.eq_of_getLsbD_eq fun i hi => ?_
  interval_cases i <;> simp [encode, encodeSH, placeNibble, place]
theorem ror (rd : Reg) (cnt : Fin 16) : Statement (.ror rd cnt) := by
  refine of_row 16 rfl (?_ : encode _ &&& 0xFF00 = 0xD300)
  refine BitVec.eq_of_getLsbD_eq fun i hi => ?_
  interval_cases i <;> simp [encode, encodeSH, placeNibble, place]
theorem jz (off9 : BitVec 9) : Statement (.jz off9) := by
  refine of_row 17 rfl (?_ : encode _ &&& 0xFE00 = 0xE000)
  refine BitVec.eq_of_getLsbD_eq fun i hi => ?_
  interval_cases i <;> simp [encode, encodeB, place]
theorem jnz (off9 : BitVec 9) : Statement (.jnz off9) := by
  refine of_row 18 rfl (?_ : encode _ &&& 0xFE00 = 0xE200)
  refine BitVec.eq_of_getLsbD_eq fun i hi => ?_
  interval_cases i <;> simp [encode, encodeB, place]
theorem jc (off9 : BitVec 9) : Statement (.jc off9) := by
  refine of_row 19 rfl (?_ : encode _ &&& 0xFE00 = 0xE400)
  refine BitVec.eq_of_getLsbD_eq fun i hi => ?_
  interval_cases i <;> simp [encode, encodeB, place]
theorem jnc (off9 : BitVec 9) : Statement (.jnc off9) := by
  refine of_row 20 rfl (?_ : encode _ &&& 0xFE00 = 0xE600)
  refine BitVec.eq_of_getLsbD_eq fun i hi => ?_
  interval_cases i <;> simp [encode, encodeB, place]
theorem jn (off9 : BitVec 9) : Statement (.jn off9) := by
  refine of_row 21 rfl (?_ : encode _ &&& 0xFE00 = 0xE800)
  refine BitVec.eq_of_getLsbD_eq fun i hi => ?_
  interval_cases i <;> simp [encode, encodeB, place]
theorem jnn (off9 : BitVec 9) : Statement (.jnn off9) := by
  refine of_row 22 rfl (?_ : encode _ &&& 0xFE00 = 0xEA00)
  refine BitVec.eq_of_getLsbD_eq fun i hi => ?_
  interval_cases i <;> simp [encode, encodeB, place]
theorem jo (off9 : BitVec 9) : Statement (.jo off9) := by
  refine of_row 23 rfl (?_ : encode _ &&& 0xFE00 = 0xEC00)
  refine BitVec.eq_of_getLsbD_eq fun i hi => ?_
  interval_cases i <;> simp [encode, encodeB, place]
theorem jno (off9 : BitVec 9) : Statement (.jno off9) := by
  refine of_row 24 rfl (?_ : encode _ &&& 0xFE00 = 0xEE00)
  refine BitVec.eq_of_getLsbD_eq fun i hi => ?_
  interval_cases i <;> simp [encode, encodeB, place]
theorem mov (rd rs : Reg) (imm2 : BitVec 2) : Statement (.mov rd rs imm2) := by
  refine of_row 25 rfl (?_ : encode _ &&& 0xFC00 = 0xF800)
  refine BitVec.eq_of_getLsbD_eq fun i hi => ?_
  interval_cases i <;> simp [encode, encodeMV, placeNibble, place]
theorem lsi (rd : Reg) (imm5 : BitVec 5) : Statement (.lsi rd imm5) := by
  refine of_row 26 rfl (?_ : encode _ &&& 0xFE00 = 0xFC00)
  refine BitVec.eq_of_getLsbD_eq fun i hi => ?_
  interval_cases i <;> simp [encode, encodeLS, placeNibble, place]
theorem set (idx : Fin 16) : Statement (.set idx) := by
  refine of_row 27 rfl (?_ : encode _ &&& 0xFFF0 = 0xFE00)
  refine BitVec.eq_of_getLsbD_eq fun i hi => ?_
  interval_cases i <;> simp [encode, encodeF, placeNibble, place]
theorem clr (idx : Fin 16) : Statement (.clr idx) := by
  refine of_row 28 rfl (?_ : encode _ &&& 0xFFF0 = 0xFE10)
  refine BitVec.eq_of_getLsbD_eq fun i hi => ?_
  interval_cases i <;> simp [encode, encodeF, placeNibble, place]
theorem set2 (idx : Fin 16) : Statement (.set2 idx) := by
  refine of_row 29 rfl (?_ : encode _ &&& 0xFFF0 = 0xFE20)
  refine BitVec.eq_of_getLsbD_eq fun i hi => ?_
  interval_cases i <;> simp [encode, encodeF, placeNibble, place]
theorem clr2 (idx : Fin 16) : Statement (.clr2 idx) := by
  refine of_row 30 rfl (?_ : encode _ &&& 0xFFF0 = 0xFE30)
  refine BitVec.eq_of_getLsbD_eq fun i hi => ?_
  interval_cases i <;> simp [encode, encodeF, placeNibble, place]
theorem nop : Statement .nop := of_row 31 rfl rfl
theorem halt : Statement .halt := of_row 32 rfl rfl
theorem swi : Statement .swi := of_row 33 rfl rfl
theorem reti : Statement .reti := of_row 34 rfl rfl
theorem haltOnes : Statement .haltOnes := of_row 35 rfl rfl

theorem undef (word : Word) : Statement (.undef word) := by
  intro h
  simp only [Instr.wf, isUnassigned, Bool.or_eq_true, decide_eq_true_eq] at h
  have hit : ∀ (j : Fin 53) (k : Nat), k ≤ 16 → (opcodeTable[j]).mnemonic = "UNDEF" →
      (opcodeTable[j]).mask.toNat = 65536 - 2 ^ k →
      word.toNat / 2 ^ k * 2 ^ k = (opcodeTable[j]).pattern.toNat →
      ∃ r ∈ opcodeTable, r.mnemonic = "UNDEF" ∧ r.matches word = true :=
    fun j k hk hn hm hp => undef_of_range j k hk hn hm hp (by simp [Instr.wf, isUnassigned, h])
  have cover : word.toNat / 2 ^ 13 * 2 ^ 13 = 0x2000 ∨
      word.toNat / 2 ^ 14 * 2 ^ 14 = 0x4000 ∨
      word.toNat / 2 ^ 9 * 2 ^ 9 = 0xCA00 ∨
      word.toNat / 2 ^ 10 * 2 ^ 10 = 0xCC00 ∨
      word.toNat / 2 ^ 10 * 2 ^ 10 = 0xD400 ∨
      word.toNat / 2 ^ 11 * 2 ^ 11 = 0xD800 ∨
      word.toNat / 2 ^ 11 * 2 ^ 11 = 0xF000 ∨
      word.toNat / 2 ^ 6 * 2 ^ 6 = 0xFE40 ∨
      word.toNat / 2 ^ 7 * 2 ^ 7 = 0xFE80 ∨
      word.toNat / 2 ^ 7 * 2 ^ 7 = 0xFF00 ∨
      word.toNat / 2 ^ 6 * 2 ^ 6 = 0xFF80 ∨
      word.toNat / 2 ^ 5 * 2 ^ 5 = 0xFFC0 ∨
      word.toNat / 2 ^ 4 * 2 ^ 4 = 0xFFE0 ∨
      word.toNat / 2 ^ 2 * 2 ^ 2 = 0xFFF4 ∨
      word.toNat / 2 ^ 2 * 2 ^ 2 = 0xFFF8 ∨
      word.toNat / 2 ^ 1 * 2 ^ 1 = 0xFFFC ∨
      word.toNat / 2 ^ 0 * 2 ^ 0 = 0xFFFE := by omega
  rcases cover with c | c | c | c | c | c | c | c | c | c | c | c | c | c | c | c | c
  · exact hit 36 13 (by omega) rfl rfl c
  · exact hit 37 14 (by omega) rfl rfl c
  · exact hit 38 9 (by omega) rfl rfl c
  · exact hit 39 10 (by omega) rfl rfl c
  · exact hit 40 10 (by omega) rfl rfl c
  · exact hit 41 11 (by omega) rfl rfl c
  · exact hit 42 11 (by omega) rfl rfl c
  · exact hit 43 6 (by omega) rfl rfl c
  · exact hit 44 7 (by omega) rfl rfl c
  · exact hit 45 7 (by omega) rfl rfl c
  · exact hit 46 6 (by omega) rfl rfl c
  · exact hit 47 5 (by omega) rfl rfl c
  · exact hit 48 4 (by omega) rfl rfl c
  · exact hit 49 2 (by omega) rfl rfl c
  · exact hit 50 2 (by omega) rfl rfl c
  · exact hit 51 1 (by omega) rfl rfl c
  · exact hit 52 0 (by omega) rfl rfl c

end Sys2Proof.Laws.EncodingRow
end

