-- ==== Sys2Proof/Tests/Slice0.lean ====
section
/-! SUPPORT. The model's own tests: decoding of words written out bit by bit from `30_encoding.md` R65, the
well-formedness smoke tests, single steps from `95_test_vectors.md` section 3 (their ids are cited), and a
witness for every statement that has hypotheses. -/

namespace Sys2Proof.Tests

open Sys2Proof.Machine Sys2Proof.Safety

/-! Well-formedness: the one check there is, refused on assigned words and met on an unassigned one. -/

theorem test_wf_refuses_undef_of_nop : (Instr.undef 0xFFF0).wf = false := by decide
theorem test_wf_refuses_undef_of_halt_sentinel : (Instr.undef 0xFFFF).wf = false := by decide
theorem test_wf_refuses_undef_of_mov : (Instr.undef 0xF800).wf = false := by decide
theorem test_wf_accepts_undef_of_unassigned : (Instr.undef 0xFFF8).wf = true := by decide

/-! Decoding, one word of every constructor, fields written apart. -/

theorem test_decode_large_immediate : decode 0b000_1001000110100 = .ldi 0x1234 := by decide
theorem test_decode_memory :
    decode 0b10_0_0001_0010_00011 = .ld 1 2 0b00011 ∧ decode 0b10_1_0001_1101_11111 = .st 1 13 0b11111 := by decide
theorem test_decode_alu_register :
    decode 0b1100_000_0001_0_0010 = .addReg 1 2 ∧ decode 0b1100_001_0001_0_0010 = .subReg 1 2 ∧
    decode 0b1100_010_0001_0_0010 = .andReg 1 2 ∧ decode 0b1100_011_0001_0_0010 = .orReg 1 2 ∧
    decode 0b1100_100_0101_0_0110 = .xorReg 5 6 := by decide
theorem test_decode_alu_immediate :
    decode 0b1100_000_1111_1_0011 = .addImm 15 3 ∧ decode 0b1100_001_0011_1_0001 = .subImm 3 1 ∧
    decode 0b1100_010_0001_1_1111 = .andImm 1 15 ∧ decode 0b1100_011_0000_1_0101 = .orImm 0 5 ∧
    decode 0b1100_100_0010_1_1000 = .xorImm 2 8 := by decide
theorem test_decode_shift :
    decode 0b110100_00_0001_0100 = .sl 1 4 ∧ decode 0b110100_01_0010_1111 = .sr 2 15 ∧
    decode 0b110100_10_0011_0010 = .sra 3 2 ∧ decode 0b110100_11_0010_0001 = .ror 2 1 := by decide
theorem test_decode_branch :
    decode 0b1110_000_111111101 = .jz 0x1FD ∧ decode 0b1110_001_111111001 = .jnz 0x1F9 ∧
    decode 0b1110_010_000000101 = .jc 5 ∧ decode 0b1110_011_111111100 = .jnc 0x1FC ∧
    decode 0b1110_100_100000000 = .jn 0x100 ∧ decode 0b1110_101_011111111 = .jnn 0xFF ∧
    decode 0b1110_110_000000001 = .jo 1 ∧ decode 0b1110_111_111111111 = .jno 0x1FF := by decide
theorem test_decode_data_move :
    decode 0b111110_1110_1111_10 = .mov 14 15 2 ∧ decode 0b1111110_0100_11111 = .lsi 4 0x1F := by decide
theorem test_decode_flag :
    decode 0b1111111000_0_0_0001 = .set 1 ∧ decode 0b1111111000_0_1_1111 = .clr 15 ∧
    decode 0b1111111000_1_0_0001 = .set2 1 ∧ decode 0b1111111000_1_1_1111 = .clr2 15 := by decide
theorem test_decode_system :
    decode 0b1111111111110_000 = .nop ∧ decode 0b1111111111110_001 = .halt ∧
    decode 0b1111111111110_010 = .swi ∧ decode 0b1111111111110_011 = .reti ∧
    decode 0b1111111111111111 = .haltOnes := by decide
/-- The first and the last word of every range of R76. -/
theorem test_decode_unassigned :
    decode 0x2000 = .undef 0x2000 ∧ decode 0x7FFF = .undef 0x7FFF ∧ decode 0xCA00 = .undef 0xCA00 ∧
    decode 0xCFFF = .undef 0xCFFF ∧ decode 0xD400 = .undef 0xD400 ∧ decode 0xDFFF = .undef 0xDFFF ∧
    decode 0xF000 = .undef 0xF000 ∧ decode 0xF7FF = .undef 0xF7FF ∧ decode 0xFE40 = .undef 0xFE40 ∧
    decode 0xFFEF = .undef 0xFFEF ∧ decode 0xFFF4 = .undef 0xFFF4 ∧ decode 0xFFFE = .undef 0xFFFE := by decide
theorem test_table_word_decodes : decodeTableWord 16 0xC271 = some (.subImm 3 1) := by decide
theorem test_short_bytes_rejected :
    (match decodeBytes .little [0x34] with | .error .truncated => true | _ => false) = true := by decide
theorem test_table_has_its_rows : opcodeTable.length = 53 := by decide

/-! The assembler (`30_encoding.md` section 7 and R78). -/

theorem test_assemble_lower_case : assembleWord [] 0 "add" [.name "r0", .num 1] = .ok 0xC011 := by decide
theorem test_assemble_branch_to_label :
    assembleWord [("loop", 0x0006)] 0x000C "JNZ" [.name "loop"] = .ok 0xE3F9 := by decide
theorem test_assemble_unknown_register :
    assemble [] 0 "MOV" [.name "R16", .name "R0"] = .error (.unknownRegister (.name "R16")) := by decide
theorem test_assemble_unknown_instruction :
    assemble [] 0 "JMP" [.num 0] = .error (.unknownInstruction "JMP") := by decide

/-! Single steps. The start state is that of `95_test_vectors.md` section 0: reset, then pc at `0x0100`. -/

/-- The start state of the vectors. -/
def bench : State := State.reset.setPc 0x0100

/-- The start state on a big-endian host. -/
def bigBench : State := { bench with params := { Config.defaults with hostByteOrder := .big } }

/-- The word is at pc; one step reaches a state with the property. -/
def steps (s : State) (w : Word) (p : State → Bool) : Bool :=
  match step (s.memWrite s.pc w) with
  | .next t => p t
  | .fault _ => false
  | .refused _ => false

/-- M2. -/
theorem test_mov_wraps_and_keeps_flags :
    steps ((bench.setReg 1 0xFFFE).setPsw 0x000F) 0xF847
      (fun t => t.reg 1 == 0x0001 && t.psw == 0x000F && t.pc == 0x0101) = true := by decide
/-- M7. -/
theorem test_mov_to_pc_jumps :
    steps (bench.setReg 3 0xFFFF) 0xFBCE (fun t => t.pc == 0x0001) = true := by decide
/-- M9. -/
theorem test_lsi_negative :
    steps (bench.setReg 4 0x1234) 0xFC90 (fun t => t.reg 4 == 0xFFF0 && t.psw == 0) = true := by decide
/-- M12. -/
theorem test_lsi_to_pc : steps bench 0xFDF0 (fun t => t.pc == 0xFFF0) = true := by decide
/-- I3. -/
theorem test_ldi_clears_upper_bits :
    steps (bench.setReg 0 0xE000) 0x1FFF (fun t => t.reg 0 == 0x1FFF && t.pc == 0x0101) = true := by decide
/-- A1. -/
theorem test_add_imm_wraps_with_carry :
    steps (bench.setReg 0 0xFFFF) 0xC011 (fun t => t.reg 0 == 0x0000 && t.psw == 0x000A) = true := by decide
/-- A3. -/
theorem test_add_reg_carry_and_overflow :
    steps ((bench.setReg 1 0x8000).setReg 2 0x8000) 0xC022
      (fun t => t.reg 1 == 0x0000 && t.psw == 0x000E) = true := by decide
/-- A6. -/
theorem test_add_to_pc_jumps : steps bench 0xC1F3 (fun t => t.pc == 0x0103 && t.psw == 0) = true := by decide
/-- A9. -/
theorem test_sub_imm_borrows :
    steps bench 0xC271 (fun t => t.reg 3 == 0xFFFF && t.psw == 0x0009) = true := by decide
/-- A11. -/
theorem test_sub_reg_borrow_and_overflow :
    steps ((bench.setReg 1 0x7FFF).setReg 2 0xFFFF) 0xC222
      (fun t => t.reg 1 == 0x8000 && t.psw == 0x000D) = true := by decide
/-- A15. -/
theorem test_and_imm_clears_c_and_v :
    steps ((bench.setReg 1 0xABCD).setPsw 0x000C) 0xC43F
      (fun t => t.reg 1 == 0x000D && t.psw == 0x0000) = true := by decide
/-- A16. -/
theorem test_and_reg_sets_n :
    steps ((bench.setReg 1 0xF0F0).setReg 2 0x8F00) 0xC422
      (fun t => t.reg 1 == 0x8000 && t.psw == 0x0001) = true := by decide
/-- A18. -/
theorem test_or_imm :
    steps (bench.setReg 0 0x8000) 0xC615 (fun t => t.reg 0 == 0x8005 && t.psw == 0x0001) = true := by decide
/-- A19. -/
theorem test_or_reg_sets_z : steps (bench.setPsw 0x000D) 0xC622 (fun t => t.psw == 0x0002) = true := by decide
/-- A22. -/
theorem test_xor_reg_complements :
    steps ((bench.setReg 1 0x1234).setReg 2 0xFFFF) 0xC822
      (fun t => t.reg 1 == 0xEDCB && t.psw == 0x0001) = true := by decide
/-- R107 with an immediate, worked by hand: `0x00F1 ^ 0x0008`. -/
theorem test_xor_imm :
    steps (bench.setReg 2 0x00F1) 0xC858 (fun t => t.reg 2 == 0x00F9 && t.psw == 0x0000) = true := by decide
/-- S3. -/
theorem test_sl_by_fifteen :
    steps (bench.setReg 1 0x0003) 0xD01F (fun t => t.reg 1 == 0x8000 && t.psw == 0x0009) = true := by decide
/-- S4. -/
theorem test_sl_by_zero_clears_c :
    steps ((bench.setReg 1 0x8001).setPsw 0x000C) 0xD010
      (fun t => t.reg 1 == 0x8001 && t.psw == 0x0001) = true := by decide
/-- S5. -/
theorem test_sr_carry :
    steps (bench.setReg 2 0x8001) 0xD121 (fun t => t.reg 2 == 0x4000 && t.psw == 0x0008) = true := by decide
/-- S8. -/
theorem test_sra_keeps_sign :
    steps (bench.setReg 3 0x8006) 0xD232 (fun t => t.reg 3 == 0xE001 && t.psw == 0x0009) = true := by decide
/-- S13. -/
theorem test_ror_by_four :
    steps (bench.setReg 2 0x1234) 0xD324 (fun t => t.reg 2 == 0x4123 && t.psw == 0x0000) = true := by decide
/-- L4. -/
theorem test_ld_wraps_below_zero :
    steps (bench.memWrite 0xFFFF 0x3333) 0x825F (fun t => t.reg 1 == 0x3333) = true := by decide
/-- L5. -/
theorem test_ld_base_is_destination :
    steps ((bench.setReg 2 0x0200).memWrite 0x0200 0x0300) 0x8440 (fun t => t.reg 2 == 0x0300) = true := by decide
/-- L11. -/
theorem test_st_of_pc_stores_own_address :
    steps (bench.setReg 3 0x0040) 0xBE6F (fun t => t.memRead 0x004F == 0x0100 && t.pc == 0x0101) = true := by decide
/-- L12. -/
theorem test_st_wraps_above_top :
    steps (bench.setReg 3 0xFFFF) 0xA661 (fun t => t.memRead 0x0000 == 0xFFFF) = true := by decide
/-- B1 to B16, the not taken and the taken case of each branch, off9 = -3. -/
theorem test_branches_on_clear_flags :
    steps bench 0xE1FD (fun t => t.pc == 0x0101) && steps bench 0xE3FD (fun t => t.pc == 0x00FE) &&
    steps bench 0xE5FD (fun t => t.pc == 0x0101) && steps bench 0xE7FD (fun t => t.pc == 0x00FE) &&
    steps bench 0xE9FD (fun t => t.pc == 0x0101) && steps bench 0xEBFD (fun t => t.pc == 0x00FE) &&
    steps bench 0xEDFD (fun t => t.pc == 0x0101) && steps bench 0xEFFD (fun t => t.pc == 0x00FE) = true := by decide
/-- Each branch with its own flag alone set (R142 to R149). -/
theorem test_branches_on_their_flag :
    steps (bench.setPsw 0x0002) 0xE1FD (fun t => t.pc == 0x00FE) &&
    steps (bench.setPsw 0x0002) 0xE3FD (fun t => t.pc == 0x0101) &&
    steps (bench.setPsw 0x0008) 0xE5FD (fun t => t.pc == 0x00FE) &&
    steps (bench.setPsw 0x0008) 0xE7FD (fun t => t.pc == 0x0101) &&
    steps (bench.setPsw 0x0001) 0xE9FD (fun t => t.pc == 0x00FE) &&
    steps (bench.setPsw 0x0001) 0xEBFD (fun t => t.pc == 0x0101) &&
    steps (bench.setPsw 0x0004) 0xEDFD (fun t => t.pc == 0x00FE) &&
    steps (bench.setPsw 0x0004) 0xEFFD (fun t => t.pc == 0x0101) = true := by decide
/-- F1. -/
theorem test_set_z : steps (bench.setPsw 0x0008) 0xFE01 (fun t => t.psw == 0x000A) = true := by decide
/-- F8. -/
theorem test_clr_top_bit : steps (bench.setPsw 0xFFFF) 0xFE1F (fun t => t.psw == 0x7FFF) = true := by decide
/-- F11. -/
theorem test_set2_reaches_de : steps bench 0xFE2B (fun t => t.psw == 0x8000) = true := by decide
/-- F12. -/
theorem test_set2_beyond_psw : steps bench 0xFE2C (fun t => t.psw == 0x0000) = true := by decide
/-- F13. -/
theorem test_clr2_s : steps (bench.setPsw 0x0031) 0xFE31 (fun t => t.psw == 0x0011) = true := by decide
/-- F15. -/
theorem test_clr2_beyond_psw : steps (bench.setPsw 0xFFFF) 0xFE3F (fun t => t.psw == 0xFFFF) = true := by decide
/-- Y1. -/
theorem test_nop : steps (bench.setPsw 0x000F) 0xFFF0 (fun t => t.psw == 0x000F && t.pc == 0x0101) = true := by
  decide
/-- Y2. -/
theorem test_halt : steps bench 0xFFF1 (fun t => !t.running && t.pc == 0x0100) = true := by decide
/-- Y3. -/
theorem test_halt_sentinel : steps bench 0xFFFF (fun t => !t.running && t.pc == 0x0100) = true := by decide
/-- Y6: `SWI_VECTOR = 0x0040`. -/
theorem test_swi_at_other_vector :
    steps { bench.setPsw 0x0001 with params := { Config.defaults with swiVector := 0x0040 } } 0xFFF2
      (fun t => t.psw == 0x0021 && t.pswShadow == 0x0001 && t.pcShadow == 0x0101 && t.pc == 0x0040) = true := by
  decide
/-- Y5: nested. -/
theorem test_swi_nested :
    steps { bench.setPsw 0x0028 with pswShadow := 0x0003, pcShadow := 0x0021 } 0xFFF2
      (fun t => t.psw == 0x0028 && t.pswShadow == 0x0028 && t.pcShadow == 0x0101) = true := by decide
/-- Y10. -/
theorem test_reti :
    steps { bench with pswShadow := 0xFFFF, pcShadow := 0x1234, csShadow := 0xABCD } 0xFFF3
      (fun t => t.psw == 0xFFFF && t.cs == 0xABCD && t.pc == 0x1234 && t.pswShadow == 0xFFFF) = true := by decide
/-- Y12. -/
theorem test_undef : steps (bench.setPsw 0x0005) 0x7FFF (fun t => t.psw == 0x0005 && t.pc == 0x0101) = true := by
  decide
/-- X7, first step: pc wraps. -/
theorem test_pc_wraps : steps (bench.setPc 0xFFFF) 0xFFF0 (fun t => t.pc == 0x0000) = true := by decide
/-- The interface's placement of an instruction: RETI as the first one after reset. -/
theorem test_first_instruction_after_reset :
    (match step (State.reset.withFetchWord 16 0xFC9F) with | .next t => t.reg 4 == 0xFFFF | _ => false) = true := by
  decide
/-- In big-endian host order the same word is stored and read (R45). -/
theorem test_big_endian_host :
    (bigBench.memWrite 3 0x1234).mem = [(6, 0x12), (7, 0x34)] ∧
      (bigBench.memWrite 3 0x1234).memRead 3 = 0x1234 := by decide
/-- A second write takes the place of the first, and the form stays canonical. -/
theorem test_second_write_replaces : ((bench.memWrite 3 0x1200).memWrite 3 0).mem = [(6, 0), (7, 0)] := by decide

/-! Witnesses: for every statement with hypotheses, a state and operands that meet them all. -/

theorem witness_ResetEventValues :
    Memory.listed [(6, 0x12)] (firstByteAddr 4) = none ∧ Memory.listed [(6, 0x12)] (secondByteAddr 4) = none := by
  decide
theorem witness_ResetForgetsRegisters :
    bench.mem = State.reset.mem ∧ bench.params = State.reset.params ∧ bench ≠ State.reset := by decide
theorem witness_HostWritesOnlyOutsideARun :
    (Session.mk bench true).stepped = true ∧ (Session.mk bench true).state.running = true ∧
    (Session.mk bench false).stepped = false ∧ (Session.mk bench.halt true).state.running = false := by decide
theorem witness_EveryRegisterReadsBack : (1 : Reg) ≠ 2 := by decide
theorem witness_DecodeOfEncode :
    (Instr.st 1 13 0x1F).wf = true ∧ (Instr.undef 0x2000).wf = true := by decide
theorem witness_AssemblerRoundTrip :
    (Instr.jz 0x1FF ≠ .haltOnes) ∧ isUnassigned 0xE1FF = false ∧ (0xE1FF : Word) ≠ 0xFFFF := by decide
/-- A register name in either case, two tokens that name none, a number as written, a literal that is none. -/
theorem witness_AssemblerRefusesOutOfRange :
    NamesNumber (.literal "-16") (-16) ∧ literalValue "12Z" = none ∧ NamesRegister (.name "sp") 13 ∧ (∀ r, ¬ NamesRegister (.num 3) r) ∧ ∀ r, ¬ NamesRegister (.name "R12") r := by
  refine ⟨.inr ⟨_, rfl, by decide +kernel⟩, by decide +kernel, ⟨"sp", rfl, by decide⟩, fun r h => ?_, fun r h => ?_⟩
  · obtain ⟨_, h, _⟩ := h; cases h
  · obtain ⟨_, h, hr⟩ := h; cases h; revert r; decide
/-- The bounds of a branch offset and of an index, and one past each. -/
theorem test_assemble_branch_and_flag_bounds :
    assemble [] 0x0100 "JNO" [.num 0x0001] = .ok (.jno 0x100) ∧ assemble [] 0x0100 "JC" [.num 0x0200] = .ok (.jc 0xFF) ∧
    assemble [] 0x0100 "JN" [.num 0x0000] = .error (.branchRangeExceeded (.num 0) (-257)) ∧
    assemble [] 0x0100 "JO" [.num 0x0201] = .error (.branchRangeExceeded (.num 0x0201) 256) ∧
    assemble [] 0 "CLR" [.num 0] = .ok (.clr 0) ∧ assemble [] 0 "SET2" [.num 15] = .ok (.set2 15) ∧
    assemble [] 0 "CLR2" [.num (-1)] = .error (.flagIndexOutOfRange (.num (-1))) ∧
    assemble [] 0 "SET" [.num 16] = .error (.flagIndexOutOfRange (.num 16)) := by decide +kernel
/-- The bounds of the signed immediates, and one past each. -/
theorem test_assemble_signed_bounds :
    assemble [] 0 "LSI" [.name "lr", .num (-16)] = .ok (.lsi 14 0x10) ∧
    assemble [] 0 "LSI" [.name "R1", .num 15] = .ok (.lsi 1 0x0F) ∧
    assemble [] 0 "LSI" [.name "R1", .num (-17)] = .error (.invalidImmediate (.num (-17))) ∧
    assemble [] 0 "LD" [.name "R1", .name "SP", .num 16] = .error (.invalidImmediate (.num 16)) := by decide
/-- The bounds of the unsigned immediates and counts. -/
theorem test_assemble_unsigned_bounds :
    assemble [] 0 "LDI" [.num 0] = .ok (.ldi 0) ∧ assemble [] 0 "LDI" [.num 8191] = .ok (.ldi 0x1FFF) ∧
    assemble [] 0 "MOV" [.name "R1", .name "R2", .num 0] = .ok (.mov 1 2 0) ∧
    assemble [] 0 "MOV" [.name "R1", .name "R2", .num 3] = .ok (.mov 1 2 3) ∧
    assemble [] 0 "SUB" [.name "R1", .num 0] = .ok (.subImm 1 0) ∧
    assemble [] 0 "XOR" [.name "R1", .num 15] = .ok (.xorImm 1 15) ∧
    assemble [] 0 "ROR" [.name "R1", .num 0] = .ok (.ror 1 0) ∧
    assemble [] 0 "SL" [.name "R1", .num 15] = .ok (.sl 1 15) := by decide +kernel
/-- One below and one past each of them, and of the displacement. -/
theorem test_assemble_unsigned_out_of_range :
    assemble [] 0 "LDI" [.num (-1)] = .error (.invalidImmediate (.num (-1))) ∧
    assemble [] 0 "LDI" [.num 8192] = .error (.invalidImmediate (.num 8192)) ∧
    assemble [] 0 "MOV" [.name "R1", .name "R2", .num (-1)] = .error (.invalidImmediate (.num (-1))) ∧
    assemble [] 0 "MOV" [.name "R1", .name "R2", .num 4] = .error (.invalidImmediate (.num 4)) ∧
    assemble [] 0 "ADD" [.name "R1", .num (-1)] = .error (.invalidImmediate (.num (-1))) ∧
    assemble [] 0 "AND" [.name "R1", .num 16] = .error (.invalidImmediate (.num 16)) ∧
    assemble [] 0 "SR" [.name "R1", .num (-1)] = .error (.invalidImmediate (.num (-1))) ∧
    assemble [] 0 "SRA" [.name "R1", .num 16] = .error (.invalidImmediate (.num 16)) ∧
    assemble [] 0 "ST" [.name "R1", .name "SP", .num (-17)] = .error (.invalidImmediate (.num (-17))) := by
  decide +kernel
/-- The three forms of a literal (R83), and texts that are none. -/
theorem test_literals :
    literalValue "10" = some 10 ∧ literalValue "-16" = some (-16) ∧ literalValue "0x1F" = some 31 ∧
    literalValue "$ff" = some 255 ∧ literalValue "" = none ∧ literalValue "-" = none ∧ literalValue "0x" = none ∧
    literalValue "1F" = none ∧ literalValue "0xG" = none ∧ literalValue "-0x1" = none := by decide +kernel
/-- An error states the token it is about (R78): an unparsable literal, and a label whose address is out of range. -/
theorem test_error_states_token :
    assemble [] 0 "LDI" [.literal "12Z"] = .error (.invalidImmediate (.literal "12Z")) ∧
    assemble [("far", 0x2000)] 0 "LDI" [.name "far"] = .error (.invalidImmediate (.name "far")) ∧
    assemble [] 0 "SET" [.literal "0x10"] = .error (.flagIndexOutOfRange (.literal "0x10")) ∧
    assemble [("far", 0x2000)] 0 "JZ" [.name "far"] = .error (.branchRangeExceeded (.name "far") 8191) := by
  decide +kernel
/-- A label bound twice has its first address (log 15). -/
theorem test_label_bound_twice : assemble [("a", 3), ("a", 5)] 0 "LDI" [.name "a"] = .ok (.ldi 3) := by decide
/-- A branch that wraps takes its target unwrapped (log 14), a label is matched in its own case (log 13). -/
theorem test_assemble_open_points :
    assemble [] 0 "JZ" [.num (-1)] = .ok (.jz 0x1FE) ∧
    assemble [] 0 "JZ" [.num 0xFFFF] = .error (.branchRangeExceeded (.num 0xFFFF) 65534) ∧
    assemble [("loop", 0)] 0 "jz" [.name "LOOP"] = .error (.unknownLabel (.name "LOOP")) := by decide +kernel
theorem witness_UnassignedWordsAreNoOps : decode 0xFFFE = .undef 0xFFFE := by decide
theorem witness_StepRunsDecodedInstruction :
    bench.running = true ∧ decode ((bench.memWrite 0x0100 0xFBFC).memRead 0x0100) = .mov 15 15 0 := by decide
theorem witness_HaltedStepChangesNothing :
    bench.halt.running = false ∧ ∃ d, Session.apply .reset ⟨bench.halt, true⟩ = .next d := ⟨rfl, _, rfl⟩
theorem witness_HaltedCoreStaysAsItIs : bench.halt.running = false := by decide
theorem witness_RunEndsExactlyAtHalt :
    (bench.memWrite 0x0100 0xFFFF).running = true ∧
      (bench.memWrite 0x0100 0xFFFF).memRead 0x0100 = 0xFFFF := by decide
theorem witness_NopAndUndefEffect :
    (bench.memWrite 0x0100 0xFFF0).running = true ∧ (bench.memWrite 0x0100 0xFFF0).memRead 0x0100 = 0xFFF0 ∧
      isUnassigned ((bench.memWrite 0x0100 0xFFFE).memRead 0x0100) = true := by decide
theorem witness_HaltStopsAndKeepsPc : (bench.memWrite 0x0100 0xFFF1).memRead (bench.reg Reg.pc) = 0xFFF1 := by
  decide
theorem witness_AddThenSubRestores : (1 : Reg) ≠ Reg.pc ∧ (2 : Reg) ≠ 1 ∧ (2 : Reg) ≠ Reg.pc := by decide
theorem witness_ComplementaryBranchesJump :
    (0x0106 : Word) = trunc16 ((bench.reg Reg.pc).toNat + 1 + (5 : BitVec 9).toInt) ∧
    (0x0106 : Word) = trunc16 ((bench.reg Reg.pc).toNat + 2 + (4 : BitVec 9).toInt) := by decide
theorem witness_CallIdiomLinksReturnAddress :
    (bench.memWrite 0x0100 0xFBBE).running = true ∧
      (bench.memWrite 0x0100 0xFBBE).memRead (bench.reg Reg.pc) = 0xFBBE := by decide
/-- Both clauses at their bounds: 11 is in the first, 12 in the second. -/
theorem witness_HighGroupIsShiftedLowGroup :
    bench.params.flagBaseH = 4 ∧ (11 : Fin 16).val ≤ 11 ∧ 12 ≤ (12 : Fin 16).val := by decide
/-- A SWI at `0x0100` with a RETI at its vector `0x0000`. -/
def swiBench : State := (bench.memWrite 0x0100 0xFFF2).memWrite 0x0000 0xFFF3
theorem witness_SwiThenRetiRestores :
    swiBench.running = true ∧ swiBench.memRead (swiBench.reg Reg.pc) = 0xFFF2 ∧
      swiBench.memRead swiBench.params.swiVector = 0xFFF3 := by decide
theorem witness_NestedSwiKeepsInnerReturnOnly : (bench.setPsw 0x0028).psw.getLsbD 5 = true := by decide
/-- `ST R0, PC, 1` at `0x0100` (L13). -/
def storeBench : State := (bench.setReg 0 0xFFF1).memWrite 0x0100 0xA1E1
theorem witness_StoreIsSeenByNextFetch :
    storeBench.running = true ∧ decode (storeBench.memRead (storeBench.reg Reg.pc)) = .st 0 15 1 ∧
      trunc16 ((storeBench.reg 15).toNat + (1 : BitVec 5).toInt)
        = trunc16 ((storeBench.reg Reg.pc).toNat + 1) := by decide
/-- RETI with CS' set changes CS; SWI with CS set changes the shadow registers. -/
theorem witness_SystemRegistersHaveTheirOneWriter :
    steps { bench with csShadow := 0xABCD } 0xFFF3 (fun t => t.cs != bench.cs) &&
      steps { bench with cs := 0xABCD } 0xFFF2 (fun t => t.csShadow != bench.csShadow) = true := by decide
/-- SETI changes bit 4, SWI bit 5, SUB of equal registers bit 1. -/
theorem witness_PswBitsHaveTheirWriters :
    steps bench 0xFE20 (fun t => t.psw.getLsbD 4) && steps bench 0xFFF2 (fun t => t.psw.getLsbD 5) &&
      steps bench 0xC200 (fun t => t.psw.getLsbD 1) = true := by decide
theorem witness_StepKeepsMemoryCanonical :
    MemoryCanonical storeBench ∧ ∃ t, step storeBench = .next t :=
  ⟨by unfold MemoryCanonical; decide, _, rfl⟩
theorem witness_StepKeepsSegmentsZero : SegmentsZero storeBench ∧ ∃ t, step storeBench = .next t :=
  ⟨by unfold SegmentsZero; decide, _, rfl⟩
theorem witness_ResetMeetsTheInvariants : MemoryCanonical storeBench := by unfold MemoryCanonical; decide
theorem witness_HostSessionsKeepTheInvariants :
    storeBench.mem.wf = true ∧
    ∃ c, Session.run [.load 0 0xFFF1, .setPc 0, .step, .reset] (Session.powerOn Config.defaults storeBench.mem)
      = .next c := ⟨by decide, _, rfl⟩
/-- A memory that lists `n` bytes of zero from address `lo` on. -/
def zeroBytes (lo n : Nat) : Memory := (List.range' lo n).map (fun k => (k, 0x00))
theorem zeroBytes_wf (lo n : Nat) (h : lo + n ≤ memoryBytes) : Memory.wfFrom lo (zeroBytes lo n) = true := by
  induction n generalizing lo with
  | zero => rfl
  | succ n ih => exact wfFrom_cons.2 ⟨le_refl _, by omega, ih (lo + 1) (by omega)⟩
theorem zeroBytes_listed (lo n k : Nat) (hl : lo ≤ k) (hk : k < lo + n) : (zeroBytes lo n).listed k = some 0x00 := by
  induction n generalizing lo with
  | zero => omega
  | succ n ih =>
    change (if k = lo then some 0x00 else (zeroBytes (lo + 1) n).listed k) = _
    split
    · rfl
    · exact ih (lo + 1) (by omega) (by omega)
theorem witness_EveryMemoryContentIsOneList :
    (zeroBytes 0 memoryBytes).wf = true ∧ (∀ k, k < memoryBytes → (zeroBytes 0 memoryBytes).listed k ≠ none) ∧
      ∀ a, Memory.readWord .little (zeroBytes 0 memoryBytes) a = 0x0000 := by
  refine ⟨zeroBytes_wf 0 _ (by omega), fun k hk => ?_, fun a => ?_⟩
  · rw [zeroBytes_listed 0 _ k (by omega) (by omega)]; exact Option.some_ne_none _
  · have ha : a.toNat < 65536 := a.isLt
    unfold Memory.readWord Memory.byteAt
    rw [zeroBytes_listed 0 _ _ (Nat.zero_le _) (by unfold firstByteAddr memoryBytes; omega),
      zeroBytes_listed 0 _ _ (Nat.zero_le _) (by unfold secondByteAddr memoryBytes; omega)]
    simp only [Option.getD_some]
    decide
/-- The last byte of the address space is inside the form, the next one is not, and the order must rise. -/
theorem test_canonical_form_bounds :
    Memory.wf [(0, 0x00), (131071, 0xFF)] = true ∧ Memory.wf [(131072, 0xFF)] = false ∧
      Memory.wf [(1, 0x01), (0, 0x01)] = false := by decide
/-- One word of memory, kept in the two byte orders: the lists differ, every word read agrees. -/
theorem witness_ByteOrderIsUnobservable :
    SameButByteOrder (bench.memWrite 3 0x1234) (bigBench.memWrite 3 0x1234) := by
  refine ⟨rfl, rfl, rfl, rfl, rfl, rfl, rfl, rfl, rfl, rfl, rfl, rfl, fun a => ?_⟩
  by_cases h : a = 3
  · subst h; rw [memWrite_memRead_same, memWrite_memRead_same]
  · rw [memWrite_memRead_other _ h, memWrite_memRead_other _ h]
    exact (readWord_unlisted .big rfl rfl).trans (readWord_unlisted .little rfl rfl).symm
theorem witness_DescriptiveStateIsInert :
    SameButDescriptive bench { bench.setPsw 0xFFF0 with ss := 0x1234, csShadow := 0x0001 } := by
  refine ⟨rfl, fun j hj => ?_, fun _ _ => rfl, rfl, rfl, rfl, rfl⟩
  interval_cases j <;> decide

end Sys2Proof.Tests
end

/-! SUPPORT. The shape of a step, said once: what an instruction reads is gathered in an `Effect`, and applying that
effect is all the step does (`60_exceptions.md` R200). Every rule over all instructions is then a rule over ten
effects. -/

namespace Sys2Proof.Machine

open Sys2Proof.Safety

/-- What a step is about to do, with every operand already read from the state before it. -/
inductive Effect where
  /-- A halted core changes nothing. -/
  | stay
  /-- A register is written. -/
  | dest (rd : Reg) (v : Word)
  /-- A register and the four flags are written. -/
  | result (rd : Reg) (r : AluResult)
  /-- A word of memory is written. -/
  | store (a v : Word)
  /-- Control goes to an address. -/
  | goto (target : Word)
  /-- PSW bits are set. -/
  | setBits (mask : Word)
  /-- PSW bits are cleared. -/
  | clearBits (mask : Word)
  /-- The core stops. -/
  | halt
  /-- The privileged context is entered. -/
  | enter (vector : Word)
  /-- The privileged context is left. -/
  | leave

/-- The state an effect leads to. -/
def Effect.apply : Effect → State → State
  | .stay, s => s
  | .dest rd v, s => s.writeDest rd v
  | .result rd r, s => s.writeResult rd r
  | .store a v, s => (s.memWrite a v).advance
  | .goto target, s => s.setPc target
  | .setBits mask, s => s.setFlagBits mask
  | .clearBits mask, s => s.clearFlagBits mask
  | .halt, s => s.halt
  | .enter vector, s => s.enterContext vector
  | .leave, s => s.leaveContext

/-- Where a branch goes (`44_branch.md` R141). -/
def State.branchGoal (s : State) (taken : Bool) (off9 : BitVec 9) : Word :=
  if taken then s.branchTarget off9 else s.seqPc

/-- The effect of an instruction in a running core. -/
def effectOf : Instr → State → Effect
  | .ldi imm13, _ => .dest 0 (zext16 imm13)
  | .ld rd rb off5, s => .dest rd (s.memRead (s.effAddr rb off5))
  | .st rd rb off5, s => .store (s.effAddr rb off5) (s.reg rd)
  | .addReg rd rs, s => .result rd (addResult (s.reg rd) (s.reg rs))
  | .addImm rd imm4, s => .result rd (addResult (s.reg rd) (zext16 imm4))
  | .subReg rd rs, s => .result rd (subResult (s.reg rd) (s.reg rs))
  | .subImm rd imm4, s => .result rd (subResult (s.reg rd) (zext16 imm4))
  | .andReg rd rs, s => .result rd (logicResult (s.reg rd &&& s.reg rs))
  | .andImm rd imm4, s => .result rd (logicResult (s.reg rd &&& zext16 imm4))
  | .orReg rd rs, s => .result rd (logicResult (s.reg rd ||| s.reg rs))
  | .orImm rd imm4, s => .result rd (logicResult (s.reg rd ||| zext16 imm4))
  | .xorReg rd rs, s => .result rd (logicResult (s.reg rd ^^^ s.reg rs))
  | .xorImm rd imm4, s => .result rd (logicResult (s.reg rd ^^^ zext16 imm4))
  | .sl rd cnt, s => .result rd (slResult (s.reg rd) cnt.val)
  | .sr rd cnt, s => .result rd (srResult (s.reg rd) cnt.val)
  | .sra rd cnt, s => .result rd (sraResult (s.reg rd) cnt.val)
  | .ror rd cnt, s => .result rd (rorResult (s.reg rd) cnt.val)
  | .jz off9, s => .goto (s.branchGoal s.flagZ off9)
  | .jnz off9, s => .goto (s.branchGoal (!s.flagZ) off9)
  | .jc off9, s => .goto (s.branchGoal s.flagC off9)
  | .jnc off9, s => .goto (s.branchGoal (!s.flagC) off9)
  | .jn off9, s => .goto (s.branchGoal s.flagN off9)
  | .jnn off9, s => .goto (s.branchGoal (!s.flagN) off9)
  | .jo off9, s => .goto (s.branchGoal s.flagV off9)
  | .jno off9, s => .goto (s.branchGoal (!s.flagV) off9)
  | .mov rd rs imm2, s => .dest rd (s.reg rs + zext16 imm2)
  | .lsi rd imm5, _ => .dest rd (sext16 imm5)
  | .set idx, _ => .setBits (flagMask 0 idx)
  | .clr idx, _ => .clearBits (flagMask 0 idx)
  | .set2 idx, s => .setBits (flagMask s.params.flagBaseH.val idx)
  | .clr2 idx, s => .clearBits (flagMask s.params.flagBaseH.val idx)
  | .nop, s => .goto s.seqPc
  | .halt, _ => .halt
  | .swi, s => .enter s.params.swiVector
  | .reti, _ => .leave
  | .haltOnes, _ => .halt
  | .undef _, s => .goto s.seqPc

/-- The effect of one step. -/
def State.stepEffect (s : State) : Effect := if s.running then effectOf (decode s.fetch) s else .stay

/-- Executing an instruction applies its effect. -/
theorem exec_eq (i : Instr) (s : State) : exec i s = .next ((effectOf i s).apply s) := by
  cases i <;> rfl

theorem stepEffect_of_running {s : State} (h : s.running = true) :
    s.stepEffect = effectOf (decode s.fetch) s := if_pos h

theorem stepEffect_of_halted {s : State} (h : s.running = false) : s.stepEffect = .stay := by
  simp [State.stepEffect, h]

/-- A step applies its effect, in a running and in a halted core (`60_exceptions.md` R200 to R202). -/
theorem step_eq (s : State) : step s = .next (s.stepEffect.apply s) := by
  cases h : s.running
  · rw [stepEffect_of_halted h]; simp [step, h, Effect.apply]
  · rw [stepEffect_of_running h, ← exec_eq]; simp [step, h]

/-- The one state a step leads to. -/
theorem step_eq_next_iff {s t : State} : step s = .next t ↔ t = s.stepEffect.apply s := by
  rw [step_eq, Host.Outcome.next.injEq, eq_comm]

/-! What every effect leaves alone, and what each may write. -/

namespace Effect

variable (e : Effect) (s : State)

@[simp] theorem apply_ds : (e.apply s).ds = s.ds := by cases e <;> rfl
@[simp] theorem apply_ss : (e.apply s).ss = s.ss := by cases e <;> rfl
@[simp] theorem apply_es : (e.apply s).es = s.es := by cases e <;> rfl
@[simp] theorem apply_params : (e.apply s).params = s.params := by cases e <;> rfl

/-- CS is written by the return alone, from CS' (`10_state.md` R22). -/
theorem apply_cs : (e.apply s).cs = s.cs ∨ e = .leave ∧ (e.apply s).cs = s.csShadow := by
  cases e with
  | leave => exact .inr ⟨rfl, rfl⟩
  | _ => exact .inl rfl

/-- The shadow registers are written by the entry alone, CS' from CS (`10_state.md` R23). -/
theorem apply_shadows :
    ShadowsKept s (e.apply s) ∨ (∃ vector, e = .enter vector) ∧ (e.apply s).csShadow = s.cs := by
  cases e with
  | enter vector => exact .inr ⟨⟨vector, rfl⟩, rfl⟩
  | _ => exact .inl ⟨rfl, rfl, rfl⟩

/-- Memory is written by a store alone, one word of it (`20_memory.md` R47). -/
theorem apply_mem :
    (e.apply s).mem = s.mem ∨ ∃ a v, e = .store a v ∧
      (e.apply s).mem = Memory.writeWord s.params.hostByteOrder s.mem a v := by
  cases e with
  | store a v => exact .inr ⟨a, v, rfl, rfl⟩
  | _ => exact .inl rfl

/-! The invariants of a run. -/

variable {s}

theorem apply_memoryCanonical (h : MemoryCanonical s) : MemoryCanonical (e.apply s) := by
  unfold MemoryCanonical at *
  obtain hkept | ⟨a, v, -, hwrite⟩ := e.apply_mem s
  · rwa [hkept]
  · rw [hwrite]; exact wf_writeWord _ h a v

theorem apply_segmentsZero (h : SegmentsZero s) : SegmentsZero (e.apply s) := by
  obtain ⟨hcs, hds, hss, hes, hcs'⟩ := h
  refine ⟨?_, by rw [apply_ds, hds], by rw [apply_ss, hss], by rw [apply_es, hes], ?_⟩
  · obtain hkept | ⟨-, hback⟩ := e.apply_cs s
    · rw [hkept, hcs]
    · rw [hback, hcs']
  · obtain ⟨-, -, hkept⟩ | ⟨-, hsaved⟩ := e.apply_shadows s
    · rw [hkept, hcs']
    · rw [hsaved, hcs]

end Effect

/-! The words that ask for an effect. -/

/-- The part of the word space (`30_encoding.md` R66) from which an effect on PSW, CS or a shadow register comes. -/
def Effect.Space : Effect → Word → Prop
  | .result _ _, w => (0xC000 ≤ w.toNat ∧ w.toNat ≤ 0xC9FF) ∨ (0xD000 ≤ w.toNat ∧ w.toNat ≤ 0xD3FF)
  | .setBits _, w => 0xFE00 ≤ w.toNat ∧ w.toNat ≤ 0xFE3F
  | .clearBits _, w => 0xFE00 ≤ w.toNat ∧ w.toNat ≤ 0xFE3F
  | .enter _, w => w = 0xFFF2
  | .leave, w => w = 0xFFF3
  | _, _ => True

/-- A field has a value exactly when the word's number has it there. -/
theorem extract_eq_iff {w : Word} {lo len : Nat} {v : BitVec len} :
    w.extractLsb' lo len = v ↔ w.toNat / 2 ^ lo % 2 ^ len = v.toNat := by
  rw [← BitVec.toNat_inj, extract_toNat]

section
variable {w : Word} (s : State)

theorem decodeSystem_space (h : w.extractLsb' 3 13 = 0b1111111111110) : (effectOf (decodeSystem w) s).Space w := by
  have hfield : w.toNat / 2 ^ 3 % 2 ^ 13 = 0x1FFE := extract_eq_iff.1 h
  have hw : w.toNat = 0xFFF0 + (w.extractLsb' 0 3).toNat := by rw [extract_toNat]; omega
  unfold decodeSystem
  split
  case h_3 hop => exact BitVec.eq_of_toNat_eq (by rw [hw, hop]; rfl)
  case h_4 hop => exact BitVec.eq_of_toNat_eq (by rw [hw, hop]; rfl)
  all_goals exact trivial

theorem decodeFlag_space (h : w.extractLsb' 6 10 = 0b1111111000) : (effectOf (decodeFlag w) s).Space w := by
  have hfield : w.toNat / 2 ^ 6 % 2 ^ 10 = 0x3F8 := extract_eq_iff.1 h
  have hw : 0xFE00 ≤ w.toNat ∧ w.toNat ≤ 0xFE3F := by omega
  unfold decodeFlag
  split <;> exact hw

theorem decodeShift_space (h : w.extractLsb' 10 6 = 0b110100) : (effectOf (decodeShift w) s).Space w := by
  have hfield : w.toNat / 2 ^ 10 % 2 ^ 6 = 0x34 := extract_eq_iff.1 h
  have hw : 0xD000 ≤ w.toNat ∧ w.toNat ≤ 0xD3FF := by omega
  unfold decodeShift
  split <;> exact .inr hw

theorem decodeAlu_space (h : w.extractLsb' 12 4 = 0b1100) : (effectOf (decodeAlu w) s).Space w := by
  have hfield : w.toNat / 2 ^ 12 % 2 ^ 4 = 0xC := extract_eq_iff.1 h
  have hw : (w.extractLsb' 9 3).toNat ≤ 4 → 0xC000 ≤ w.toNat ∧ w.toNat ≤ 0xC9FF := by
    rw [extract_toNat]; omega
  unfold decodeAlu
  split
  case h_6 => exact trivial
  all_goals
    next hop =>
      rw [hop] at hw
      split <;> exact .inl (hw (by decide))

theorem decodeBranch_space : (effectOf (decodeBranch w) s).Space w := by
  unfold decodeBranch
  split <;> exact trivial

theorem decodeMemory_space : (effectOf (decodeMemory w) s).Space w := by
  unfold decodeMemory
  split <;> exact trivial

theorem decode_space (w : Word) : (effectOf (decode w) s).Space w := by
  unfold decode
  split_ifs with _ hsystem hflag _ _ hshift halu
  · exact trivial
  · exact decodeSystem_space s hsystem
  · exact decodeFlag_space s hflag
  · exact trivial
  · exact trivial
  · exact decodeShift_space s hshift
  · exact decodeAlu_space s halu
  · exact decodeBranch_space s
  · exact trivial
  · exact decodeMemory_space s
  · exact trivial

/-- The effect of a step comes from the word at pc. -/
theorem stepEffect_space : s.stepEffect.Space s.fetch := by
  cases h : s.running
  · rw [stepEffect_of_halted h]; exact trivial
  · rw [stepEffect_of_running h]; exact decode_space s s.fetch

end

/-- An effect that changes a bit of PSW comes from a word in the space of one of the bit's writers. -/
theorem Effect.apply_psw_changed {e : Effect} {s : State} {w : Word} {j : Nat} (hw : e.Space w) (hj : j < 16)
    (h : (e.apply s).psw.getLsbD j ≠ s.psw.getLsbD j) :
    (0xFE00 ≤ w.toNat ∧ w.toNat ≤ 0xFE3F) ∨ w = 0xFFF3 ∨ (j = 5 ∧ w = 0xFFF2) ∨
      (j ≤ 3 ∧ ((0xC000 ≤ w.toNat ∧ w.toNat ≤ 0xC9FF) ∨ (0xD000 ≤ w.toNat ∧ w.toNat ≤ 0xD3FF))) := by
  cases e with
  | setBits mask => exact .inl hw
  | clearBits mask => exact .inl hw
  | leave => exact .inr (.inl hw)
  | enter vector =>
    have hj5 : j = 5 := by
      by_contra hne
      exact h ((pswWithS_getLsbD s.psw hj).trans (if_neg hne))
    exact .inr (.inr (.inl ⟨hj5, hw⟩))
  | result rd r =>
    have hj3 : j ≤ 3 := by
      by_contra hge
      exact h (pswWithFlags_upper _ _ _ _ _ (by omega) hj)
    exact .inr (.inr (.inr ⟨hj3, hw⟩))
  | _ => exact absurd rfl h

end Sys2Proof.Machine

/-! SUPPORT. States that differ only in what the spec calls descriptive: each effect reads none of it and keeps the
states so (`10_state.md` R19, R20, R22). -/

namespace Sys2Proof.Safety

open Sys2Proof.Machine

/-! The low nibble of PSW through the updates of PSW. -/

namespace SameFlags

variable {p p' : Word}

theorem or (h : SameFlags p p') (mask : Word) : SameFlags (p ||| mask) (p' ||| mask) := fun j hj => by
  rw [BitVec.getLsbD_or, BitVec.getLsbD_or, h j hj]

theorem and (h : SameFlags p p') (mask : Word) : SameFlags (p &&& mask) (p' &&& mask) := fun j hj => by
  rw [BitVec.getLsbD_and, BitVec.getLsbD_and, h j hj]

/-- Writing the four flags makes them agree. -/
theorem pswWithFlags (p p' : Word) (n z v c : Bool) :
    SameFlags (pswWithFlags p n z v c) (pswWithFlags p' n z v c) := fun j hj => by
  interval_cases j
  · rw [pswWithFlags_n, pswWithFlags_n]
  · rw [pswWithFlags_z, pswWithFlags_z]
  · rw [pswWithFlags_v, pswWithFlags_v]
  · rw [pswWithFlags_c, pswWithFlags_c]

end SameFlags

namespace SameButDescriptive

variable {s s' : State}

/-! What such states have in common. -/

theorem reg (h : SameButDescriptive s s') (r : Reg) : s'.reg r = s.reg r := by
  obtain ⟨hx, -⟩ := h
  rw [State.reg, State.reg, hx]

theorem memRead (h : SameButDescriptive s s') (a : Word) : s'.memRead a = s.memRead a := by
  obtain ⟨-, -, -, -, -, hmem, hparams⟩ := h
  rw [State.memRead, State.memRead, hmem, hparams]

theorem flags (h : SameButDescriptive s s') : SameFlags s.psw s'.psw := by
  obtain ⟨-, hpsw, -⟩ := h
  exact hpsw

theorem flagN (h : SameButDescriptive s s') : s'.flagN = s.flagN := h.flags 0 (by decide)
theorem flagZ (h : SameButDescriptive s s') : s'.flagZ = s.flagZ := h.flags 1 (by decide)
theorem flagV (h : SameButDescriptive s s') : s'.flagV = s.flagV := h.flags 2 (by decide)
theorem flagC (h : SameButDescriptive s s') : s'.flagC = s.flagC := h.flags 3 (by decide)

theorem pcShadow (h : SameButDescriptive s s') : s'.pcShadow = s.pcShadow := by
  obtain ⟨-, -, -, hpc, -⟩ := h
  exact hpc

theorem running (h : SameButDescriptive s s') : s'.running = s.running := by
  obtain ⟨-, -, -, -, hrunning, -⟩ := h
  exact hrunning

theorem params (h : SameButDescriptive s s') : s'.params = s.params := by
  obtain ⟨-, -, -, -, -, -, hparams⟩ := h
  exact hparams

theorem pc (h : SameButDescriptive s s') : s'.pc = s.pc := h.reg Reg.pc

theorem seqPc (h : SameButDescriptive s s') : s'.seqPc = s.seqPc := by rw [State.seqPc, State.seqPc, h.pc]

theorem fetch (h : SameButDescriptive s s') : s'.fetch = s.fetch := by
  rw [State.fetch, State.fetch, h.pc, h.memRead]

theorem effAddr (h : SameButDescriptive s s') (rb : Reg) (off5 : BitVec 5) :
    s'.effAddr rb off5 = s.effAddr rb off5 := by rw [State.effAddr, State.effAddr, h.reg]

theorem branchGoal (h : SameButDescriptive s s') (taken : Bool) (off9 : BitVec 9) :
    s'.branchGoal taken off9 = s.branchGoal taken off9 := by
  simp only [State.branchGoal, State.branchTarget, h.pc, h.seqPc]

/-- No instruction reads descriptive state: its effect is the same. -/
theorem effectOf (h : SameButDescriptive s s') (i : Instr) : effectOf i s' = effectOf i s := by
  cases i <;> simp only [Machine.effectOf, h.reg, h.memRead, h.effAddr, h.branchGoal, h.seqPc, h.params, h.flagN,
    h.flagZ, h.flagV, h.flagC]

theorem stepEffect (h : SameButDescriptive s s') : s'.stepEffect = s.stepEffect := by
  rw [State.stepEffect, State.stepEffect, h.running, h.fetch, h.effectOf]

/-! What keeps them so. -/

theorem setReg (h : SameButDescriptive s s') (r : Reg) (v : Word) :
    SameButDescriptive (s.setReg r v) (s'.setReg r v) := by
  obtain ⟨hx, hrest⟩ := h
  exact ⟨congrArg (·.set r v) hx, hrest⟩

theorem setPc (h : SameButDescriptive s s') {v v' : Word} (hv : v' = v) :
    SameButDescriptive (s.setPc v) (s'.setPc v') := by
  rw [hv]
  exact h.setReg Reg.pc v

theorem setPsw (h : SameButDescriptive s s') {v v' : Word} (hv : SameFlags v v') :
    SameButDescriptive (s.setPsw v) (s'.setPsw v') := by
  obtain ⟨hx, -, hrest⟩ := h
  exact ⟨hx, hv, hrest⟩

theorem advance (h : SameButDescriptive s s') : SameButDescriptive s.advance s'.advance := h.setPc h.seqPc

theorem writeDest (h : SameButDescriptive s s') (rd : Reg) (v : Word) :
    SameButDescriptive (s.writeDest rd v) (s'.writeDest rd v) := (h.setReg rd v).setPc (by rw [h.seqPc])

theorem memWrite (h : SameButDescriptive s s') (a v : Word) :
    SameButDescriptive (s.memWrite a v) (s'.memWrite a v) := by
  obtain ⟨hx, hpsw, hshadow, hpc, hrunning, hmem, hparams⟩ := h
  refine ⟨hx, hpsw, hshadow, hpc, hrunning, ?_, hparams⟩
  rw [memWrite_mem, memWrite_mem, hmem, hparams]

theorem halt (h : SameButDescriptive s s') : SameButDescriptive s.halt s'.halt := by
  have hpc := h.pc
  obtain ⟨hx, hpsw, hshadow, hpcShadow, -, hrest⟩ := h
  have hstopped : SameButDescriptive { s with running := false } { s' with running := false } :=
    ⟨hx, hpsw, hshadow, hpcShadow, rfl, hrest⟩
  exact hstopped.setPc hpc

theorem enterContext (h : SameButDescriptive s s') (vector : Word) :
    SameButDescriptive (s.enterContext vector) (s'.enterContext vector) := by
  have hreturn := h.seqPc
  obtain ⟨hx, hpsw, -, -, hrest⟩ := h
  have hsaved : SameButDescriptive
      { s with pswShadow := s.psw, pcShadow := s.seqPc, csShadow := s.cs, psw := pswWithS s.psw }
      { s' with pswShadow := s'.psw, pcShadow := s'.seqPc, csShadow := s'.cs, psw := pswWithS s'.psw } :=
    ⟨hx, hpsw.or 0x0020, hpsw, hreturn, hrest⟩
  exact hsaved.setPc rfl

theorem leaveContext (h : SameButDescriptive s s') : SameButDescriptive s.leaveContext s'.leaveContext := by
  have hreturn := h.pcShadow
  obtain ⟨hx, -, hshadow, hrest⟩ := h
  have hback : SameButDescriptive { s with psw := s.pswShadow, cs := s.csShadow }
      { s' with psw := s'.pswShadow, cs := s'.csShadow } := ⟨hx, hshadow, hshadow, hrest⟩
  exact hback.setPc hreturn

theorem apply (h : SameButDescriptive s s') (e : Effect) : SameButDescriptive (e.apply s) (e.apply s') := by
  cases e with
  | stay => exact h
  | dest rd v => exact h.writeDest rd v
  | result rd r => exact (h.setPsw (.pswWithFlags _ _ _ _ _ _)).writeDest rd r.value
  | store a v => exact (h.memWrite a v).advance
  | goto target => exact h.setPc rfl
  | setBits mask => exact (h.setPsw (h.flags.or mask)).advance
  | clearBits mask => exact (h.setPsw (h.flags.and (~~~mask))).advance
  | halt => exact h.halt
  | enter vector => exact h.enterContext vector
  | leave => exact h.leaveContext

end SameButDescriptive

end Sys2Proof.Safety

/-! SUPPORT. What a session keeps, over every event of the host (`70_reset_and_hazards.md` R236). -/

namespace Sys2Proof.Machine

open Sys2Proof.Safety

/-- A host's own write leads to the state written, when it is not refused. -/
theorem mutate_state {c d : Session} {t : State} (h : c.mutate t = .next d) : d.state = t := by
  unfold Session.mutate at h
  split at h
  · cases h; rfl
  · cases h

/-- All that an event can do to the core. -/
theorem apply_state {c d : Session} {e : HostEvent} (h : c.apply e = .next d) :
    d.state = c.state.resetEvent ∨ d.state = c.state.stepEffect.apply c.state ∨
      (∃ a v, d.state = c.state.memWrite a v) ∨ ∃ a, d.state = c.state.setPc a := by
  cases e with
  | reset => cases h; exact .inl rfl
  | step =>
    rw [Session.apply, step_eq] at h
    cases h
    exact .inr (.inl rfl)
  | load a v => exact .inr (.inr (.inl ⟨a, v, mutate_state h⟩))
  | setPc a => exact .inr (.inr (.inr ⟨a, mutate_state h⟩))

/-- What every event keeps, a sequence of events keeps. -/
theorem run_keeps {P : Session → Prop} (hP : ∀ {c d e}, P c → Session.apply e c = .next d → P d)
    {events : List HostEvent} {c d : Session} (hc : P c) (h : Session.run events c = .next d) : P d := by
  induction events generalizing c with
  | nil => cases h; exact hc
  | cons e rest ih =>
    rw [Session.run] at h
    split at h
    · next hnext => exact ih (hP hc hnext) h
    · cases h
    · cases h

/-- What holds of the core however its host drives it. -/
structure HostInvariant (p : Config.Params) (s : State) : Prop where
  canonical : MemoryCanonical s
  segments : SegmentsZero s
  params : s.params = p

/-- Reset gives it, over any memory in canonical form (`10_state.md` R30). -/
theorem hostInvariant_resetWith (p : Config.Params) {m : Memory} (hm : m.wf = true) :
    HostInvariant p (State.resetWith p m) := ⟨hm, ⟨rfl, rfl, rfl, rfl, rfl⟩, rfl⟩

theorem hostInvariant_apply {p : Config.Params} {c d : Session} {e : HostEvent} (hc : HostInvariant p c.state)
    (h : c.apply e = .next d) : HostInvariant p d.state := by
  obtain ⟨hmem, hseg, hparams⟩ := hc
  obtain hd | hd | ⟨a, v, hd⟩ | ⟨a, hd⟩ := apply_state h <;> rw [hd]
  · rw [← hparams]; exact hostInvariant_resetWith _ hmem
  · exact ⟨Effect.apply_memoryCanonical _ hmem, Effect.apply_segmentsZero _ hseg, by rw [Effect.apply_params, hparams]⟩
  · exact ⟨wf_writeWord _ hmem a v, hseg, hparams⟩
  · exact ⟨hmem, hseg, hparams⟩

end Sys2Proof.Machine

/-! SUPPORT. A memory stated in full: the bytes of every word, and the one canonical list that holds them
(`70_reset_and_hazards.md` R232; log 1, log 2). -/

namespace Sys2Proof.Machine

/-- The bytes that `g` gives the `n` addresses from `lo` on. -/
def bytesFrom (g : Nat → Byte) (lo n : Nat) : Memory := (List.range' lo n).map (fun k => (k, g k))

theorem bytesFrom_succ (g : Nat → Byte) (lo n : Nat) :
    bytesFrom g lo (n + 1) = (lo, g lo) :: bytesFrom g (lo + 1) n := rfl

theorem wfFrom_bytesFrom (g : Nat → Byte) {lo n : Nat} (h : lo + n ≤ memoryBytes) :
    Memory.wfFrom lo (bytesFrom g lo n) = true := by
  induction n generalizing lo with
  | zero => rfl
  | succ n ih => exact wfFrom_cons.2 ⟨le_refl _, by omega, ih (by omega)⟩

theorem listed_bytesFrom (g : Nat → Byte) {lo n k : Nat} (hlo : lo ≤ k) (hk : k < lo + n) :
    (bytesFrom g lo n).listed k = some (g k) := by
  induction n generalizing lo with
  | zero => omega
  | succ n ih =>
    rw [bytesFrom_succ, Memory.listed]
    split
    · next heq => rw [heq]
    · next hne => exact ih (by omega) (by omega)

/-- A canonical memory lists nothing outside the addresses its form speaks of. -/
theorem listed_eq_none_of_wfFrom {lo k : Nat} {m : Memory} (hm : Memory.wfFrom lo m = true)
    (hk : k < lo ∨ memoryBytes ≤ k) : m.listed k = none := by
  induction m generalizing lo with
  | nil => rfl
  | cons c rest ih =>
    obtain ⟨a, v⟩ := c
    obtain ⟨hlo, ha, hrest⟩ := wfFrom_cons.1 hm
    rw [Memory.listed, if_neg (by omega)]
    exact ih hrest (by omega)

/-- What a canonical memory lists is within the addresses its form speaks of. -/
theorem bounds_of_listed {lo k : Nat} {m : Memory} {v : Byte} (hm : Memory.wfFrom lo m = true)
    (h : m.listed k = some v) : lo ≤ k ∧ k < memoryBytes := by
  by_contra hout
  rw [listed_eq_none_of_wfFrom hm (by omega)] at h
  cases h

@[simp] theorem listed_cons_same (k : Nat) (v : Byte) (rest : Memory) :
    Memory.listed ((k, v) :: rest) k = some v := if_pos rfl

theorem listed_cons_other {a k : Nat} (h : a ≠ k) (v : Byte) (rest : Memory) :
    Memory.listed ((k, v) :: rest) a = rest.listed a := if_neg h

/-- Of two canonical memories that list the same bytes, the second begins no later. -/
theorem head_le_of_listed_eq {lo' k k' : Nat} {v v' : Byte} {rest rest' : Memory}
    (hm' : Memory.wfFrom lo' ((k', v') :: rest') = true)
    (h : Memory.listed ((k, v) :: rest) k = Memory.listed ((k', v') :: rest') k) : k' ≤ k := by
  obtain ⟨-, hk', hrest'⟩ := wfFrom_cons.1 hm'
  have hfrom : Memory.wfFrom k' ((k', v') :: rest') = true := wfFrom_cons.2 ⟨le_refl _, hk', hrest'⟩
  rw [listed_cons_same] at h
  exact (bounds_of_listed hfrom h.symm).1

/-- Canonical memories that list the same bytes are the same list. -/
theorem eq_of_listed_eq {lo lo' : Nat} {m m' : Memory} (hm : Memory.wfFrom lo m = true)
    (hm' : Memory.wfFrom lo' m' = true) (h : ∀ k, m.listed k = m'.listed k) : m = m' := by
  induction m generalizing lo lo' m' with
  | nil =>
    cases m' with
    | nil => rfl
    | cons c' rest' => exact absurd ((h c'.1).trans (listed_cons_same _ _ _)) nofun
  | cons c rest ih =>
    obtain ⟨k, v⟩ := c
    cases m' with
    | nil => exact absurd ((h k).symm.trans (listed_cons_same _ _ _)) nofun
    | cons c' rest' =>
      obtain ⟨k', v'⟩ := c'
      obtain rfl : k' = k := le_antisymm (head_le_of_listed_eq hm' (h k)) (head_le_of_listed_eq hm (h k').symm)
      obtain ⟨-, -, hrest⟩ := wfFrom_cons.1 hm
      obtain ⟨-, -, hrest'⟩ := wfFrom_cons.1 hm'
      have hv : v = v' := by simpa using h k'
      have htail : ∀ a, Memory.listed rest a = Memory.listed rest' a := fun a => by
        by_cases ha : a = k'
        · rw [listed_eq_none_of_wfFrom hrest (by omega), listed_eq_none_of_wfFrom hrest' (by omega)]
        · have hak := h a
          rwa [listed_cons_other ha, listed_cons_other ha] at hak
      rw [hv, ih hrest hrest' htail]

/-! The bytes of a word. -/

theorem extract_lower_byte (upper lower : Byte) :
    (upper.setWidth 16 <<< 8 ||| lower.setWidth 16).extractLsb' 0 8 = lower := by
  refine BitVec.eq_of_getLsbD_eq fun i hi => ?_
  interval_cases i <;> simp

theorem extract_upper_byte (upper lower : Byte) :
    (upper.setWidth 16 <<< 8 ||| lower.setWidth 16).extractLsb' 8 8 = upper := by
  refine BitVec.eq_of_getLsbD_eq fun i hi => ?_
  interval_cases i <;> simp

@[simp] theorem firstByte_wordOfBytes (o : Config.ByteOrder) (x y : Byte) : firstByte o (wordOfBytes o x y) = x := by
  cases o with
  | little => exact extract_lower_byte y x
  | big => exact extract_upper_byte x y

@[simp] theorem secondByte_wordOfBytes (o : Config.ByteOrder) (x y : Byte) :
    secondByte o (wordOfBytes o x y) = y := by
  cases o with
  | little => exact extract_upper_byte y x
  | big => exact extract_lower_byte x y

/-- The byte at a byte address when the words of memory are those of `f`, laid out in byte order `o`. -/
def byteOfWords (o : Config.ByteOrder) (f : Word → Word) (k : Nat) : Byte :=
  if k % 2 = 0 then firstByte o (f (BitVec.ofNat 16 (k / 2))) else secondByte o (f (BitVec.ofNat 16 (k / 2)))

theorem byteOfWords_firstByteAddr (o : Config.ByteOrder) (f : Word → Word) (a : Word) :
    byteOfWords o f (firstByteAddr a) = firstByte o (f a) := by
  have hmod : firstByteAddr a % 2 = 0 := by unfold firstByteAddr; omega
  have hdiv : firstByteAddr a / 2 = a.toNat := by unfold firstByteAddr; omega
  rw [byteOfWords, if_pos hmod, hdiv, BitVec.ofNat_toNat, BitVec.setWidth_eq]

theorem byteOfWords_secondByteAddr (o : Config.ByteOrder) (f : Word → Word) (a : Word) :
    byteOfWords o f (secondByteAddr a) = secondByte o (f a) := by
  have hmod : secondByteAddr a % 2 ≠ 0 := by unfold secondByteAddr; omega
  have hdiv : secondByteAddr a / 2 = a.toNat := by unfold secondByteAddr; omega
  rw [byteOfWords, if_neg hmod, hdiv, BitVec.ofNat_toNat, BitVec.setWidth_eq]

/-- Every byte address of the memory is one of the two of a word (`20_memory.md` R40). -/
theorem exists_word_of_byteAddr {k : Nat} (hk : k < memoryBytes) :
    ∃ a : Word, k = firstByteAddr a ∨ k = secondByteAddr a := by
  have ha : (BitVec.ofNat 16 (k / 2)).toNat = k / 2 := by
    unfold memoryBytes at hk
    rw [BitVec.toNat_ofNat]
    omega
  refine ⟨BitVec.ofNat 16 (k / 2), ?_⟩
  unfold firstByteAddr secondByteAddr
  omega

/-- Reading every word of a memory tells every byte of it. -/
theorem byteAt_of_readWord {o : Config.ByteOrder} {f : Word → Word} {m : Memory} (h : ∀ a, m.readWord o a = f a)
    {k : Nat} (hk : k < memoryBytes) : m.byteAt o k = byteOfWords o f k := by
  obtain ⟨a, rfl | rfl⟩ := exists_word_of_byteAddr hk
  · rw [byteOfWords_firstByteAddr, ← h a, Memory.readWord, firstByte_wordOfBytes]
  · rw [byteOfWords_secondByteAddr, ← h a, Memory.readWord, secondByte_wordOfBytes]

/-- A canonical memory that lists every byte is the list of them all. -/
theorem listed_of_full {o : Config.ByteOrder} {f : Word → Word} {m : Memory} (hm : m.wf = true)
    (hfull : ∀ k, k < memoryBytes → m.listed k ≠ none) (h : ∀ a, m.readWord o a = f a) (k : Nat) :
    m.listed k = if k < memoryBytes then some (byteOfWords o f k) else none := by
  split
  · next hk =>
    obtain ⟨v, hv⟩ := Option.ne_none_iff_exists'.1 (hfull k hk)
    rw [← byteAt_of_readWord h hk, Memory.byteAt, hv, Option.getD_some]
  · exact listed_eq_none_of_wfFrom hm (by omega)

/-- The whole memory as the list of its bytes. -/
def memoryOfWords (o : Config.ByteOrder) (f : Word → Word) : Memory := bytesFrom (byteOfWords o f) 0 memoryBytes

theorem memoryOfWords_wf (o : Config.ByteOrder) (f : Word → Word) : (memoryOfWords o f).wf = true :=
  wfFrom_bytesFrom _ (by omega)

theorem memoryOfWords_listed (o : Config.ByteOrder) (f : Word → Word) {k : Nat} (hk : k < memoryBytes) :
    (memoryOfWords o f).listed k = some (byteOfWords o f k) := listed_bytesFrom _ (by omega) (by omega)

theorem memoryOfWords_full (o : Config.ByteOrder) (f : Word → Word) {k : Nat} (hk : k < memoryBytes) :
    (memoryOfWords o f).listed k ≠ none := by
  rw [memoryOfWords_listed o f hk]
  exact Option.some_ne_none _

theorem memoryOfWords_readWord (o : Config.ByteOrder) (f : Word → Word) (a : Word) :
    (memoryOfWords o f).readWord o a = f a := by
  have ha : a.toNat < 65536 := a.isLt
  rw [Memory.readWord, Memory.byteAt, Memory.byteAt,
    memoryOfWords_listed o f (by unfold firstByteAddr memoryBytes; omega),
    memoryOfWords_listed o f (by unfold secondByteAddr memoryBytes; omega), Option.getD_some, Option.getD_some,
    byteOfWords_firstByteAddr, byteOfWords_secondByteAddr, wordOfBytes_split]

end Sys2Proof.Machine

/-! SUPPORT. Where pc goes, the integer addresses of the statements, and the whole frame of a register write. -/

namespace Sys2Proof.Machine

theorem seqPc_setPc (s : State) (v : Word) : (s.setPc v).seqPc = v + 1 := by rw [State.seqPc, setPc_pc]

theorem branchTarget_setPc (s : State) (v : Word) (off9 : BitVec 9) :
    (s.setPc v).branchTarget off9 = v + 1 + sext16 off9 := by rw [State.branchTarget, setPc_pc]

theorem exec_nop (s : State) : exec .nop s = .next (s.setPc s.seqPc) := rfl

/-- JZ with Z set goes to its target (`44_branch.md` R142). -/
theorem exec_jz_taken {s : State} (hz : s.flagZ = true) (off9 : BitVec 9) :
    exec (.jz off9) s = .next (s.setPc (s.branchTarget off9)) := by
  rw [exec_eq, effectOf, State.branchGoal, if_pos hz]
  rfl

end Sys2Proof.Machine

namespace Sys2Proof.Safety

open Sys2Proof.Machine

/-- A number added modulo 65536 (`00_scope.md` R9). -/
theorem trunc16_toNat_add (w : Word) (n : Int) : trunc16 (w.toNat + n) = w + BitVec.ofInt 16 n := by
  rw [trunc16, BitVec.ofInt_add, BitVec.ofInt_natCast, BitVec.ofNat_toNat, BitVec.setWidth_eq]

theorem seqPc_eq_trunc16 (s : State) : s.seqPc = trunc16 ((s.reg Reg.pc).toNat + 1) :=
  (trunc16_toNat_add _ 1).symm

theorem destWritten_writeDest (rd : Reg) (v : Word) (s : State) : DestWritten rd v s (s.writeDest rd v) := by
  refine ⟨?_, fun hrd => ?_, fun q hq hpc => ?_⟩
  · rw [writeDest_reg, if_pos rfl]
  · rw [writeDest_reg, if_neg hrd.symm, if_pos rfl, seqPc_eq_trunc16]
  · rw [writeDest_reg, if_neg hq, if_neg hpc]

/-- Writing a destination changes nothing but it and pc (`40_data_move.md` R90). -/
theorem registerEffect_writeDest (rd : Reg) (v : Word) (s : State) : RegisterEffect rd v s (s.writeDest rd v) :=
  ⟨destWritten_writeDest rd v s, rfl, ⟨⟨rfl, rfl, rfl, rfl⟩, ⟨rfl, rfl, rfl⟩, rfl, rfl⟩, fun _ => rfl⟩

end Sys2Proof.Safety

/-! The settled statements about the state (`10_state.md`). -/

namespace Sys2Proof.Proofs

open Sys2Proof.Machine Sys2Proof.Safety

/-- Settles O7: the list of all 131072 bytes holds the content, and what a canonical list holds tells the list. -/
theorem everyMemoryContentIsOneList : Obligations.EveryMemoryContentIsOneList := by
  refine ⟨fun o f => ⟨memoryOfWords o f, ⟨memoryOfWords_wf o f, fun _ hk => memoryOfWords_full o f hk,
    memoryOfWords_readWord o f⟩, fun m' hm' hfull hread => ?_⟩, fun m m' hm hm' => eq_of_listed_eq hm hm'⟩
  have hlisted := listed_of_full hm' hfull hread
  have hwhole := listed_of_full (memoryOfWords_wf o f) (fun _ hk => memoryOfWords_full o f hk)
    (memoryOfWords_readWord o f)
  exact eq_of_listed_eq hm' (memoryOfWords_wf o f) fun k => (hlisted k).trans (hwhole k).symm

/-- Settles O53: the effect on CS is the return's, that on the shadow registers the entry's, and each of the two
comes from its own word. -/
theorem systemRegistersHaveTheirOneWriter : Obligations.SystemRegistersHaveTheirOneWriter := by
  intro s
  have hspace := stepEffect_space s
  refine ⟨_, step_eq s, Effect.apply_ds _ _, Effect.apply_ss _ _, Effect.apply_es _ _, fun hcs => ?_, fun hkept => ?_⟩
  · obtain hsame | ⟨hleave, -⟩ := s.stepEffect.apply_cs s
    · exact absurd hsame hcs
    · rw [hleave] at hspace
      exact hspace
  · obtain hsame | ⟨⟨vector, henter⟩, -⟩ := s.stepEffect.apply_shadows s
    · exact absurd hsame hkept
    · rw [henter] at hspace
      exact hspace

/-- Settles O54: an effect that changes a bit of PSW comes from a word of one of the bit's writers. -/
theorem pswBitsHaveTheirWriters : Obligations.PswBitsHaveTheirWriters := by
  intro s
  refine ⟨_, step_eq s, fun j hj hchanged => ?_⟩
  obtain hflag | hreti | ⟨hj5, hswi⟩ | hresult := Effect.apply_psw_changed (stepEffect_space s) hj hchanged
  · exact .inl hflag
  · exact .inr (.inl (congrArg BitVec.toNat hreti))
  · exact .inr (.inr (.inl ⟨hj5, congrArg BitVec.toNat hswi⟩))
  · exact .inr (.inr (.inr hresult))

/-- Settles O56: no effect brings a value into a segment register or CS' from anywhere but CS and CS'. -/
theorem stepKeepsSegmentsZero : Obligations.StepKeepsSegmentsZero := by
  intro s t hzero hstep
  rw [step_eq_next_iff.1 hstep]
  exact s.stepEffect.apply_segmentsZero hzero

/-- Settles O58, by induction on the events: power-on gives the invariant and each event keeps it. -/
theorem hostSessionsKeepTheInvariants : Obligations.HostSessionsKeepTheInvariants := by
  intro p image events c himage hrun
  have hpowerOn : HostInvariant p (Session.powerOn p image).state := hostInvariant_resetWith p himage
  obtain ⟨hmem, hseg, hparams⟩ :=
    run_keeps (P := fun c => HostInvariant p c.state) hostInvariant_apply hpowerOn hrun
  exact ⟨hmem, hseg, hparams⟩

/-- Settles O60: two such states give a step one effect, and applying it keeps them alike. -/
theorem descriptiveStateIsInert : Obligations.DescriptiveStateIsInert := by
  intro s s' t hsame hstep
  rw [step_eq_next_iff.1 hstep]
  exact ⟨_, step_eq s', hsame.stepEffect ▸ hsame.apply s.stepEffect⟩

/-- Settles O4: `pc` and `setPc` are the read and the write of register 15. -/
theorem pcIsRegisterFifteen : Obligations.PcIsRegisterFifteen := fun s v =>
  ⟨rfl, setReg_reg_same s 15 v, setPc_pc s v⟩

/-- Settles O5: a write to a register is read back, and no other register changes. -/
theorem everyRegisterReadsBack : Obligations.EveryRegisterReadsBack := fun s r v =>
  ⟨setReg_reg_same s r v, fun _ hq => setReg_reg_other s hq v⟩

/-- Settles O41: pc goes to the next address or to the target, both sums modulo 65536. -/
theorem pcWrapsAtTheTop : Obligations.PcWrapsAtTheTop := by
  intro s
  have hnext : (s.setPc 0xFFFF).seqPc = 0x0000 := by rw [seqPc_setPc]; decide
  have habove : ((s.setPsw 0x0002).setPc 0xFFFE).branchTarget 5 = 0x0004 := by rw [branchTarget_setPc]; decide
  have hbelow : ((s.setPsw 0x0002).setPc 0x0001).branchTarget 0x1FC = 0xFFFE := by rw [branchTarget_setPc]; decide
  have hz : ∀ v, ((s.setPsw 0x0002).setPc v).flagZ = true := fun _ => by
    rw [State.flagZ, setPc_psw, setPsw_psw]
    decide
  exact ⟨⟨_, exec_nop _, (setPc_pc _ _).trans hnext⟩, ⟨_, exec_jz_taken (hz _) 5, (setPc_pc _ _).trans habove⟩,
    ⟨_, exec_jz_taken (hz _) 0x1FC, (setPc_pc _ _).trans hbelow⟩⟩

/-- Settles O47: the word is MOV of pc and 2 into LR (`40_data_move.md` R91). -/
theorem callIdiomLinksReturnAddress : Obligations.CallIdiomLinksReturnAddress := by
  intro s hrunning hword
  have hdecode : decode s.fetch = .mov Reg.lr Reg.pc 2 := by
    rw [State.fetch, State.pc, hword]
    decide
  have heffect : s.stepEffect = .dest Reg.lr (trunc16 ((s.reg Reg.pc).toNat + 2)) := by
    rw [stepEffect_of_running hrunning, hdecode, trunc16_toNat_add]
    rfl
  refine ⟨_, step_eq s, ?_⟩
  rw [heffect]
  exact registerEffect_writeDest _ _ s

/-- Settles O57: reset lists nothing, or the memory that was there, and clears the registers. -/
theorem resetMeetsTheInvariants : Obligations.ResetMeetsTheInvariants := by
  obtain ⟨hmem, hseg, -⟩ := hostInvariant_resetWith Config.defaults reset_mem_wf
  refine ⟨hmem, hseg, fun s hs => ?_⟩
  obtain ⟨hmem', hseg', -⟩ := hostInvariant_resetWith s.params hs
  exact ⟨hmem', hseg'⟩

end Sys2Proof.Proofs

/-! SUPPORT. What a store changes, and the one instruction that stores (`20_memory.md` R42, R47, R53). -/

namespace Sys2Proof.Machine

open Sys2Proof.Safety

/-- Every word after a memory write, the written one and the others (`20_memory.md` R42). -/
theorem memWrite_memRead (s : State) (a v b : Word) :
    (s.memWrite a v).memRead b = if b = a then v else s.memRead b := by
  split
  · next heq => rw [heq, memWrite_memRead_same]
  · next hne => exact memWrite_memRead_other s hne v

theorem storedOnly_memWrite (s : State) (a v : Word) : StoredOnly a v s (s.memWrite a v) :=
  ⟨memWrite_memRead_same s a v, fun _ hb => memWrite_memRead_other s hb v, fun _ hk => memWrite_byteAt_other s hk v⟩

theorem effAddr_eq_trunc16 (s : State) (rb : Reg) (off5 : BitVec 5) :
    s.effAddr rb off5 = trunc16 ((s.reg rb).toNat + off5.toInt) := effAddr_eq s rb off5

/-- A running core executes the word it fetches (`60_exceptions.md` R200). -/
theorem step_of_running {s : State} (h : s.running = true) : step s = exec (decode s.fetch) s := if_pos h

/-- ST alone stores: its register, at its effective address (`43_load_store.md` R132). -/
theorem effectOf_eq_store {i : Instr} {s : State} {a v : Word} (h : effectOf i s = .store a v) :
    ∃ rd rb off5, i = .st rd rb off5 ∧ a = s.effAddr rb off5 ∧ v = s.reg rd := by
  cases i with
  | st rd rb off5 => cases h; exact ⟨rd, rb, off5, rfl, rfl, rfl⟩
  | _ => cases h

/-- A step that stores is that of a running core with a ST at pc. -/
theorem stepEffect_eq_store {s : State} {a v : Word} (h : s.stepEffect = .store a v) :
    s.running = true ∧ ∃ rd rb off5, decode s.fetch = .st rd rb off5 ∧ a = s.effAddr rb off5 ∧ v = s.reg rd := by
  cases hrunning : s.running
  · rw [stepEffect_of_halted hrunning] at h
    cases h
  · rw [stepEffect_of_running hrunning] at h
    exact ⟨rfl, effectOf_eq_store h⟩

/-- The bytes of memory through an effect: a store writes its one word, and nothing else writes any. -/
theorem Effect.apply_bytes (e : Effect) (s : State) :
    MemoryKept s (e.apply s) ∨ ∃ a v, e = .store a v ∧ StoredOnly a v s (e.apply s) := by
  cases e with
  | store a v => exact .inr ⟨a, v, rfl, storedOnly_memWrite s a v⟩
  | _ => exact .inl fun _ => rfl

/-- The core after a store to the next address: it fetches the word just stored (`20_memory.md` R53). -/
theorem fetch_after_store_next (s : State) (v : Word) : (Effect.apply (.store s.seqPc v) s).fetch = v := by
  have hpc : (Effect.apply (.store s.seqPc v) s).pc = s.seqPc := advance_pc (s.memWrite s.seqPc v)
  rw [State.fetch, hpc]
  exact memWrite_memRead_same s s.seqPc v

end Sys2Proof.Machine

/-! SUPPORT. One core over two layouts of its memory: every effect is the same and keeps the words alike
(`20_memory.md` R45; log 2). -/

namespace Sys2Proof.Machine

open Sys2Proof.Safety

/-- The same core on a host with byte order `o`, over the bytes `m`. -/
def State.withLayout (s : State) (o : Config.ByteOrder) (m : Memory) : State :=
  { s with mem := m, params := ⟨s.params.swiVector, s.params.flagBaseH, o⟩ }

/-- Two states are equal but for the byte order when one is the other laid out anew with the same words. -/
theorem sameButByteOrder_iff {s s' : State} :
    SameButByteOrder s s' ↔ (∃ o m, s' = s.withLayout o m) ∧ ∀ a, s'.memRead a = s.memRead a := by
  constructor
  · rintro ⟨hx, hpsw, hcs, hds, hss, hes, hpsw', hpc', hcs', hrunning, hvector, hbase, hread⟩
    refine ⟨⟨s'.params.hostByteOrder, s'.mem, ?_⟩, hread⟩
    rw [State.withLayout, ← hx, ← hpsw, ← hcs, ← hds, ← hss, ← hes, ← hpsw', ← hpc', ← hcs', ← hrunning, ← hvector,
      ← hbase]
  · rintro ⟨⟨o, m, rfl⟩, hread⟩
    exact ⟨rfl, rfl, rfl, rfl, rfl, rfl, rfl, rfl, rfl, rfl, rfl, rfl, hread⟩

section
variable {s : State} {o : Config.ByteOrder} {m : Memory}

/-- Memory enters the effect of an instruction as words, and only in LD. -/
theorem effectOf_withLayout (h : ∀ a, (s.withLayout o m).memRead a = s.memRead a) (i : Instr) :
    effectOf i (s.withLayout o m) = effectOf i s := by
  cases i with
  | ld rd rb off5 => exact congrArg (Effect.dest rd) (h (s.effAddr rb off5))
  | _ => rfl

theorem stepEffect_withLayout (h : ∀ a, (s.withLayout o m).memRead a = s.memRead a) :
    (s.withLayout o m).stepEffect = s.stepEffect := by
  have hfetch : (s.withLayout o m).fetch = s.fetch := h s.pc
  rw [State.stepEffect, hfetch, effectOf_withLayout h]
  rfl

end

/-- The layout bears on nothing an effect writes outside memory. -/
theorem Effect.apply_withLayout (e : Effect) (s : State) (o : Config.ByteOrder) (m : Memory) :
    e.apply (s.withLayout o m) = (e.apply s).withLayout o (e.apply (s.withLayout o m)).mem := by
  cases e <;> rfl

/-- Effects keep the words of two memories alike. -/
theorem Effect.apply_memRead_congr {s s' : State} (h : ∀ a, s'.memRead a = s.memRead a) (e : Effect) (b : Word) :
    (e.apply s').memRead b = (e.apply s).memRead b := by
  cases e with
  | store a v => simp only [Effect.apply, advance_memRead, memWrite_memRead, h]
  | _ => exact h b

end Sys2Proof.Machine

/-! The settled statements about memory (`20_memory.md`). -/

namespace Sys2Proof.Proofs

open Sys2Proof.Machine Sys2Proof.Safety

/-- Settles O55: memory changes by a word write alone, and that keeps the canonical form. -/
theorem stepKeepsMemoryCanonical : Obligations.StepKeepsMemoryCanonical := by
  intro s t hcanonical hstep
  rw [step_eq_next_iff.1 hstep]
  exact s.stepEffect.apply_memoryCanonical hcanonical

/-- Settles O6: the write touches the two bytes of its word and no field but memory. -/
theorem memoryWriteSetsOneWord : Obligations.MemoryWriteSetsOneWord := fun s a v =>
  ⟨storedOnly_memWrite s a v, memWrite_reg s a v, memWrite_psw s a v, ⟨rfl, rfl, rfl, rfl⟩, ⟨rfl, rfl, rfl⟩, rfl, rfl⟩

/-- Settles O51: the store's address is the next pc, so the next fetch reads the word stored. -/
theorem storeIsSeenByNextFetch : Obligations.StoreIsSeenByNextFetch := by
  intro s rd rb off5 hrunning hdecode haddr
  have hnext : s.effAddr rb off5 = s.seqPc := by rw [effAddr_eq_trunc16, haddr, seqPc_eq_trunc16]
  have heffect : s.stepEffect = .store s.seqPc (s.reg rd) := by
    rw [stepEffect_of_running hrunning, ← hnext]
    exact congrArg (effectOf · s) hdecode
  have hrunning' : (Effect.apply (.store s.seqPc (s.reg rd)) s).running = true := hrunning
  refine ⟨_, step_eq s, ?_⟩
  rw [heffect, step_of_running hrunning', fetch_after_store_next]

/-- Settles O52: a step that writes memory has the effect of a store, which only a ST of a running core has. -/
theorem onlyStoreChangesMemory : Obligations.OnlyStoreChangesMemory := by
  intro s
  refine ⟨_, step_eq s, ?_⟩
  obtain hkept | ⟨a, v, hstore, hwritten⟩ := s.stepEffect.apply_bytes s
  · exact .inl hkept
  · obtain ⟨hrunning, rd, rb, off5, hdecode, rfl, rfl⟩ := stepEffect_eq_store hstore
    rw [effAddr_eq_trunc16] at hwritten
    exact .inr ⟨rd, rb, off5, hrunning, hdecode, hwritten⟩

/-- Settles O59: the two states are one core over two layouts, its step has one effect over both, and the effect
leaves the words alike. -/
theorem byteOrderIsUnobservable : Obligations.ByteOrderIsUnobservable := by
  intro s s' t hsame hstep
  obtain ⟨⟨o, m, rfl⟩, hread⟩ := sameButByteOrder_iff.1 hsame
  rw [step_eq_next_iff.1 hstep]
  refine ⟨_, step_eq _, ?_⟩
  rw [stepEffect_withLayout hread]
  exact sameButByteOrder_iff.2 ⟨⟨o, _, Effect.apply_withLayout _ s o m⟩, Effect.apply_memRead_congr hread _⟩

/-- Settles O14: the two bytes of a word make it up again, in either order. -/
theorem hostBytesDecodeAsTheirWord : Obligations.HostBytesDecodeAsTheirWord := fun o w rest =>
  ⟨by rw [decodeBytes_of_word, wordOfBytes_split], wordOfBytes_split o w⟩

end Sys2Proof.Proofs

/-! SUPPORT. The codec in numbers (`30_encoding.md` R65, R66): an encoded word is the sum of its fixed bits and its
fields, and the decoder tests leading bits, which are quotients of the word. -/

namespace Sys2Proof.Codec

open Sys2Proof.Machine

variable {w fixed : Word}

/-! Fields of a word. -/

theorem nibbleField_val (w : Word) (lo : Nat) : (nibbleField w lo).val = w.toNat / 2 ^ lo % 2 ^ 4 :=
  extract_toNat w lo 4

theorem nibbleField_eq_iff {lo : Nat} {r : Fin 16} : nibbleField w lo = r ↔ w.toNat / 2 ^ lo % 2 ^ 4 = r.val := by
  rw [Fin.ext_iff, nibbleField_val]

theorem getLsbD_eq_decide (w : Word) (i : Nat) : w.getLsbD i = decide (w.toNat / 2 ^ i % 2 = 1) :=
  Nat.testBit_eq_decide_div_mod_eq

/-- A field that ends at bit 15 has a value exactly when the word begins with it. -/
theorem topField_eq_iff {lo len : Nat} (h : lo + len = 16) {v : BitVec len} :
    w.extractLsb' lo len = v ↔ w.toNat / 2 ^ lo = v.toNat := by
  have hw : w.toNat / 2 ^ lo < 2 ^ len := Nat.div_lt_of_lt_mul (by rw [← pow_add, h]; exact w.isLt)
  rw [extract_eq_iff, Nat.mod_eq_of_lt hw]

/-- A field at the low end of the leading bits is read from them. -/
theorem extract_of_quotient {lo len c : Nat} (h : w.toNat / 2 ^ lo = c) :
    (w.extractLsb' lo len).toNat = c % 2 ^ len := by
  rw [extract_toNat, h]

/-! Placing a field adds it. -/

theorem place_getLsbD {n lo : Nat} (f : BitVec n) {i : Nat} (hi : i < 16) :
    (place lo f).getLsbD i = (!decide (i < lo) && f.getLsbD (i - lo)) := by
  simp [place, hi]

theorem place_toNat {n lo : Nat} (f : BitVec n) (hfit : lo + n ≤ 16) : (place lo f).toNat = f.toNat * 2 ^ lo := by
  have hlt : f.toNat * 2 ^ lo < 2 ^ 16 := calc
    f.toNat * 2 ^ lo < 2 ^ n * 2 ^ lo := Nat.mul_lt_mul_of_pos_right f.isLt (Nat.two_pow_pos lo)
    _ = 2 ^ (lo + n) := by rw [← pow_add, Nat.add_comm]
    _ ≤ 2 ^ 16 := Nat.pow_le_pow_right (by decide) hfit
  rw [place, BitVec.toNat_shiftLeft, BitVec.toNat_setWidth_of_le (by omega), Nat.shiftLeft_eq, Nat.mod_eq_of_lt hlt]

/-- A field placed over free bits of a word. -/
theorem or_place_toNat {n lo c : Nat} {f : BitVec n} (hw : w.toNat = c) (hfree : c / 2 ^ lo % 2 ^ n = 0)
    (hfit : lo + n ≤ 16 := by decide) : (w ||| place lo f).toNat = c + f.toNat * 2 ^ lo := by
  have hzero : w.extractLsb' lo n = 0#n := extract_eq_iff.2 (by rw [hw, hfree]; rfl)
  have hdisjoint : w &&& place lo f = 0#16 := by
    refine BitVec.eq_of_getLsbD_eq fun i hi => ?_
    rw [BitVec.getLsbD_and, place_getLsbD f hi, BitVec.getLsbD_zero]
    by_cases hin : lo ≤ i ∧ i - lo < n
    · have hbit : w.getLsbD (lo + (i - lo)) = false := by
        simpa [hin.2] using congrArg (·.getLsbD (i - lo)) hzero
      rw [Nat.add_sub_cancel' hin.1] at hbit
      rw [hbit, Bool.false_and]
    · by_cases hlo : i < lo
      · simp [hlo]
      · rw [BitVec.getLsbD_of_ge f _ (by omega), Bool.and_false, Bool.and_false]
  rw [← BitVec.add_eq_or_of_and_eq_zero _ _ hdisjoint, BitVec.toNat_add_of_and_eq_zero hdisjoint,
    place_toNat f hfit, hw]

theorem or_placeNibble_toNat {lo c : Nat} {r : Fin 16} (hw : w.toNat = c) (hfree : c / 2 ^ lo % 2 ^ 4 = 0)
    (hfit : lo + 4 ≤ 16 := by decide) : (w ||| placeNibble lo r).toNat = c + r.val * 2 ^ lo :=
  or_place_toNat hw hfree hfit

/-! The number of each format (R65). -/

theorem encodeI13_toNat (imm13 : BitVec 13) : (encodeI13 imm13).toNat = imm13.toNat * 2 ^ 0 :=
  place_toNat imm13 (by decide)

theorem encodeM_toNat (h : fixed.toNat % 2 ^ 13 = 0) (rd rb : Reg) (off5 : BitVec 5) :
    (encodeM fixed rd rb off5).toNat = fixed.toNat + rd.val * 2 ^ 9 + rb.val * 2 ^ 5 + off5.toNat * 2 ^ 0 :=
  or_place_toNat (or_placeNibble_toNat (or_placeNibble_toNat rfl (by omega)) (by omega)) (by omega)

theorem encodeAReg_toNat (h : fixed.toNat % 2 ^ 9 = 0) (rd rs : Reg) :
    (encodeAReg fixed rd rs).toNat = fixed.toNat + rd.val * 2 ^ 5 + rs.val * 2 ^ 0 :=
  or_placeNibble_toNat (or_placeNibble_toNat rfl (by omega)) (by omega)

theorem encodeAImm_toNat (h : fixed.toNat % 2 ^ 9 = 2 ^ 4) (rd : Reg) (imm4 : BitVec 4) :
    (encodeAImm fixed rd imm4).toNat = fixed.toNat + rd.val * 2 ^ 5 + imm4.toNat * 2 ^ 0 :=
  or_place_toNat (or_placeNibble_toNat rfl (by omega)) (by omega)

theorem encodeSH_toNat (h : fixed.toNat % 2 ^ 8 = 0) (rd : Reg) (cnt : Fin 16) :
    (encodeSH fixed rd cnt).toNat = fixed.toNat + rd.val * 2 ^ 4 + cnt.val * 2 ^ 0 :=
  or_placeNibble_toNat (or_placeNibble_toNat rfl (by omega)) (by omega)

theorem encodeB_toNat (h : fixed.toNat % 2 ^ 9 = 0) (off9 : BitVec 9) :
    (encodeB fixed off9).toNat = fixed.toNat + off9.toNat * 2 ^ 0 :=
  or_place_toNat rfl (by omega)

theorem encodeMV_toNat (rd rs : Reg) (imm2 : BitVec 2) :
    (encodeMV rd rs imm2).toNat = 0xF800 + rd.val * 2 ^ 6 + rs.val * 2 ^ 2 + imm2.toNat * 2 ^ 0 :=
  or_place_toNat (or_placeNibble_toNat (or_placeNibble_toNat rfl (by omega)) (by omega)) (by omega)

theorem encodeLS_toNat (rd : Reg) (imm5 : BitVec 5) :
    (encodeLS rd imm5).toNat = 0xFC00 + rd.val * 2 ^ 5 + imm5.toNat * 2 ^ 0 :=
  or_place_toNat (or_placeNibble_toNat rfl (by omega)) (by omega)

theorem encodeF_toNat (h : fixed.toNat % 2 ^ 4 = 0) (idx : Fin 16) :
    (encodeF fixed idx).toNat = fixed.toNat + idx.val * 2 ^ 0 :=
  or_placeNibble_toNat rfl (by omega)

/-! The decoder's tests, in the order of `decode` (R67). -/

theorem decode_by_quotient (w : Word) : decode w =
    if w.toNat = 0xFFFF then .haltOnes
    else if w.toNat / 2 ^ 3 = 0b1111111111110 then decodeSystem w
    else if w.toNat / 2 ^ 6 = 0b1111111000 then decodeFlag w
    else if w.toNat / 2 ^ 9 = 0b1111110 then .lsi (nibbleField w 5) (w.extractLsb' 0 5)
    else if w.toNat / 2 ^ 10 = 0b111110 then .mov (nibbleField w 6) (nibbleField w 2) (w.extractLsb' 0 2)
    else if w.toNat / 2 ^ 10 = 0b110100 then decodeShift w
    else if w.toNat / 2 ^ 12 = 0b1100 then decodeAlu w
    else if w.toNat / 2 ^ 12 = 0b1110 then decodeBranch w
    else if w.toNat / 2 ^ 13 = 0b000 then .ldi (w.extractLsb' 0 13)
    else if w.toNat / 2 ^ 14 = 0b10 then decodeMemory w
    else .undef w := by
  simp only [decode, ← BitVec.toNat_inj (x := w), topField_eq_iff]
  rfl

/-! The family of each beginning: one test succeeds and those before it fail. -/

theorem decode_of_system (h : w.toNat / 2 ^ 3 = 0b1111111111110) : decode w = decodeSystem w := by
  rw [decode_by_quotient]
  simp (disch := omega) only [if_pos, if_neg]

theorem decode_of_flag (h : w.toNat / 2 ^ 6 = 0b1111111000) : decode w = decodeFlag w := by
  rw [decode_by_quotient]
  simp (disch := omega) only [if_pos, if_neg]

theorem decode_lsi (h : w.toNat / 2 ^ 9 = 0b1111110) : decode w = .lsi (nibbleField w 5) (w.extractLsb' 0 5) := by
  rw [decode_by_quotient]
  simp (disch := omega) only [if_pos, if_neg]

theorem decode_mov (h : w.toNat / 2 ^ 10 = 0b111110) :
    decode w = .mov (nibbleField w 6) (nibbleField w 2) (w.extractLsb' 0 2) := by
  rw [decode_by_quotient]
  simp (disch := omega) only [if_pos, if_neg]

theorem decode_of_shift (h : w.toNat / 2 ^ 10 = 0b110100) : decode w = decodeShift w := by
  rw [decode_by_quotient]
  simp (disch := omega) only [if_pos, if_neg]

theorem decode_of_alu (h : w.toNat / 2 ^ 12 = 0b1100) : decode w = decodeAlu w := by
  rw [decode_by_quotient]
  simp (disch := omega) only [if_pos, if_neg]

theorem decode_of_branch (h : w.toNat / 2 ^ 12 = 0b1110) : decode w = decodeBranch w := by
  rw [decode_by_quotient]
  simp (disch := omega) only [if_pos, if_neg]

theorem decode_ldi (h : w.toNat / 2 ^ 13 = 0b000) : decode w = .ldi (w.extractLsb' 0 13) := by
  rw [decode_by_quotient]
  simp (disch := omega) only [if_pos, if_neg]

theorem decode_of_memory (h : w.toNat / 2 ^ 14 = 0b10) : decode w = decodeMemory w := by
  rw [decode_by_quotient]
  simp (disch := omega) only [if_pos, if_neg]

/-! One equation for each row of the opcode map with operands (R66, R68 to R72). -/

theorem decode_ld (h : w.toNat / 2 ^ 13 = 0b100) :
    decode w = .ld (nibbleField w 9) (nibbleField w 5) (w.extractLsb' 0 5) := by
  rw [decode_of_memory (by omega), decodeMemory, getLsbD_eq_decide, h]
  rfl

theorem decode_st (h : w.toNat / 2 ^ 13 = 0b101) :
    decode w = .st (nibbleField w 9) (nibbleField w 5) (w.extractLsb' 0 5) := by
  rw [decode_of_memory (by omega), decodeMemory, getLsbD_eq_decide, h]
  rfl

theorem decode_add (h : w.toNat / 2 ^ 9 = 0b1100000) :
    decode w = if w.getLsbD 4 then .addImm (nibbleField w 5) (w.extractLsb' 0 4)
      else .addReg (nibbleField w 5) (nibbleField w 0) := by
  rw [decode_of_alu (by omega), decodeAlu, extract_of_quotient h]
  rfl

theorem decode_sub (h : w.toNat / 2 ^ 9 = 0b1100001) :
    decode w = if w.getLsbD 4 then .subImm (nibbleField w 5) (w.extractLsb' 0 4)
      else .subReg (nibbleField w 5) (nibbleField w 0) := by
  rw [decode_of_alu (by omega), decodeAlu, extract_of_quotient h]
  rfl

theorem decode_and (h : w.toNat / 2 ^ 9 = 0b1100010) :
    decode w = if w.getLsbD 4 then .andImm (nibbleField w 5) (w.extractLsb' 0 4)
      else .andReg (nibbleField w 5) (nibbleField w 0) := by
  rw [decode_of_alu (by omega), decodeAlu, extract_of_quotient h]
  rfl

theorem decode_or (h : w.toNat / 2 ^ 9 = 0b1100011) :
    decode w = if w.getLsbD 4 then .orImm (nibbleField w 5) (w.extractLsb' 0 4)
      else .orReg (nibbleField w 5) (nibbleField w 0) := by
  rw [decode_of_alu (by omega), decodeAlu, extract_of_quotient h]
  rfl

theorem decode_xor (h : w.toNat / 2 ^ 9 = 0b1100100) :
    decode w = if w.getLsbD 4 then .xorImm (nibbleField w 5) (w.extractLsb' 0 4)
      else .xorReg (nibbleField w 5) (nibbleField w 0) := by
  rw [decode_of_alu (by omega), decodeAlu, extract_of_quotient h]
  rfl

theorem decode_sl (h : w.toNat / 2 ^ 8 = 0b11010000) : decode w = .sl (nibbleField w 4) (nibbleField w 0) := by
  rw [decode_of_shift (by omega), decodeShift, extract_of_quotient h]
  rfl

theorem decode_sr (h : w.toNat / 2 ^ 8 = 0b11010001) : decode w = .sr (nibbleField w 4) (nibbleField w 0) := by
  rw [decode_of_shift (by omega), decodeShift, extract_of_quotient h]
  rfl

theorem decode_sra (h : w.toNat / 2 ^ 8 = 0b11010010) : decode w = .sra (nibbleField w 4) (nibbleField w 0) := by
  rw [decode_of_shift (by omega), decodeShift, extract_of_quotient h]
  rfl

theorem decode_ror (h : w.toNat / 2 ^ 8 = 0b11010011) : decode w = .ror (nibbleField w 4) (nibbleField w 0) := by
  rw [decode_of_shift (by omega), decodeShift, extract_of_quotient h]
  rfl

theorem decode_jz (h : w.toNat / 2 ^ 9 = 0b1110000) : decode w = .jz (w.extractLsb' 0 9) := by
  rw [decode_of_branch (by omega), decodeBranch, extract_of_quotient h]
  rfl

theorem decode_jnz (h : w.toNat / 2 ^ 9 = 0b1110001) : decode w = .jnz (w.extractLsb' 0 9) := by
  rw [decode_of_branch (by omega), decodeBranch, extract_of_quotient h]
  rfl

theorem decode_jc (h : w.toNat / 2 ^ 9 = 0b1110010) : decode w = .jc (w.extractLsb' 0 9) := by
  rw [decode_of_branch (by omega), decodeBranch, extract_of_quotient h]
  rfl

theorem decode_jnc (h : w.toNat / 2 ^ 9 = 0b1110011) : decode w = .jnc (w.extractLsb' 0 9) := by
  rw [decode_of_branch (by omega), decodeBranch, extract_of_quotient h]
  rfl

theorem decode_jn (h : w.toNat / 2 ^ 9 = 0b1110100) : decode w = .jn (w.extractLsb' 0 9) := by
  rw [decode_of_branch (by omega), decodeBranch, extract_of_quotient h]
  rfl

theorem decode_jnn (h : w.toNat / 2 ^ 9 = 0b1110101) : decode w = .jnn (w.extractLsb' 0 9) := by
  rw [decode_of_branch (by omega), decodeBranch, extract_of_quotient h]
  rfl

theorem decode_jo (h : w.toNat / 2 ^ 9 = 0b1110110) : decode w = .jo (w.extractLsb' 0 9) := by
  rw [decode_of_branch (by omega), decodeBranch, extract_of_quotient h]
  rfl

theorem decode_jno (h : w.toNat / 2 ^ 9 = 0b1110111) : decode w = .jno (w.extractLsb' 0 9) := by
  rw [decode_of_branch (by omega), decodeBranch, extract_of_quotient h]
  rfl

theorem decode_set (h : w.toNat / 2 ^ 4 = 0b111111100000) : decode w = .set (nibbleField w 0) := by
  rw [decode_of_flag (by omega), decodeFlag, extract_of_quotient h]
  rfl

theorem decode_clr (h : w.toNat / 2 ^ 4 = 0b111111100001) : decode w = .clr (nibbleField w 0) := by
  rw [decode_of_flag (by omega), decodeFlag, extract_of_quotient h]
  rfl

theorem decode_set2 (h : w.toNat / 2 ^ 4 = 0b111111100010) : decode w = .set2 (nibbleField w 0) := by
  rw [decode_of_flag (by omega), decodeFlag, extract_of_quotient h]
  rfl

theorem decode_clr2 (h : w.toNat / 2 ^ 4 = 0b111111100011) : decode w = .clr2 (nibbleField w 0) := by
  rw [decode_of_flag (by omega), decodeFlag, extract_of_quotient h]
  rfl

/-! The unassigned words (R76): no test succeeds, or the family has no such operation. -/

theorem decode_of_no_family
    (h : (0x2000 ≤ w.toNat ∧ w.toNat ≤ 0x7FFF) ∨ (0xD400 ≤ w.toNat ∧ w.toNat ≤ 0xDFFF) ∨
      (0xF000 ≤ w.toNat ∧ w.toNat ≤ 0xF7FF) ∨ (0xFE40 ≤ w.toNat ∧ w.toNat ≤ 0xFFEF) ∨
      (0xFFF8 ≤ w.toNat ∧ w.toNat ≤ 0xFFFE)) : decode w = .undef w := by
  rw [decode_by_quotient]
  simp (disch := omega) only [if_neg]

theorem decode_of_alu_unassigned (h : 0xCA00 ≤ w.toNat ∧ w.toNat ≤ 0xCFFF) : decode w = .undef w := by
  have hop : 5 ≤ (w.extractLsb' 9 3).toNat := by rw [extract_toNat]; omega
  rw [decode_of_alu (by omega), decodeAlu]
  split
  case h_6 => rfl
  all_goals omega

theorem decode_of_system_unassigned (h : 0xFFF4 ≤ w.toNat ∧ w.toNat ≤ 0xFFF7) : decode w = .undef w := by
  have hop : 4 ≤ (w.extractLsb' 0 3).toNat := by rw [extract_toNat]; omega
  rw [decode_of_system (by omega), decodeSystem]
  split
  case h_5 => rfl
  all_goals omega

theorem isUnassigned_iff : isUnassigned w = true ↔
    (0x2000 ≤ w.toNat ∧ w.toNat ≤ 0x7FFF) ∨ (0xCA00 ≤ w.toNat ∧ w.toNat ≤ 0xCFFF) ∨
    (0xD400 ≤ w.toNat ∧ w.toNat ≤ 0xDFFF) ∨ (0xF000 ≤ w.toNat ∧ w.toNat ≤ 0xF7FF) ∨
    (0xFE40 ≤ w.toNat ∧ w.toNat ≤ 0xFFEF) ∨ (0xFFF4 ≤ w.toNat ∧ w.toNat ≤ 0xFFFE) := by
  simp only [isUnassigned, Bool.or_eq_true, decide_eq_true_eq, or_assoc]

theorem decode_undef (h : isUnassigned w = true) : decode w = .undef w := by
  rw [isUnassigned_iff] at h
  by_cases halu : 0xCA00 ≤ w.toNat ∧ w.toNat ≤ 0xCFFF
  · exact decode_of_alu_unassigned halu
  by_cases hsystem : 0xFFF4 ≤ w.toNat ∧ w.toNat ≤ 0xFFF7
  · exact decode_of_system_unassigned hsystem
  · exact decode_of_no_family (by omega)

/-! Decode of encode, format by format: a row's equation reads the fields back. -/

theorem decode_encodeM {mk : Reg → Reg → BitVec 5 → Instr} (hfixed : fixed.toNat % 2 ^ 13 = 0)
    (hrow : ∀ {w : Word}, w.toNat / 2 ^ 13 = fixed.toNat / 2 ^ 13 →
      decode w = mk (nibbleField w 9) (nibbleField w 5) (w.extractLsb' 0 5))
    (rd rb : Reg) (off5 : BitVec 5) : decode (encodeM fixed rd rb off5) = mk rd rb off5 := by
  have hw := encodeM_toNat hfixed rd rb off5
  have hrd : nibbleField (encodeM fixed rd rb off5) 9 = rd := nibbleField_eq_iff.2 (by omega)
  have hrb : nibbleField (encodeM fixed rd rb off5) 5 = rb := nibbleField_eq_iff.2 (by omega)
  have hoff : (encodeM fixed rd rb off5).extractLsb' 0 5 = off5 := extract_eq_iff.2 (by omega)
  rw [hrow (by omega), hrd, hrb, hoff]

theorem decode_encodeAReg {mkReg : Reg → Reg → Instr} {mkImm : Reg → BitVec 4 → Instr}
    (hfixed : fixed.toNat % 2 ^ 9 = 0)
    (hrow : ∀ {w : Word}, w.toNat / 2 ^ 9 = fixed.toNat / 2 ^ 9 →
      decode w = if w.getLsbD 4 then mkImm (nibbleField w 5) (w.extractLsb' 0 4)
        else mkReg (nibbleField w 5) (nibbleField w 0))
    (rd rs : Reg) : decode (encodeAReg fixed rd rs) = mkReg rd rs := by
  have hw := encodeAReg_toNat hfixed rd rs
  have hm : (encodeAReg fixed rd rs).getLsbD 4 = false := by
    rw [getLsbD_eq_decide, decide_eq_false_iff_not]; omega
  have hrd : nibbleField (encodeAReg fixed rd rs) 5 = rd := nibbleField_eq_iff.2 (by omega)
  have hrs : nibbleField (encodeAReg fixed rd rs) 0 = rs := nibbleField_eq_iff.2 (by omega)
  rw [hrow (by omega), hm, hrd, hrs]
  rfl

theorem decode_encodeAImm {mkReg : Reg → Reg → Instr} {mkImm : Reg → BitVec 4 → Instr}
    (hfixed : fixed.toNat % 2 ^ 9 = 2 ^ 4)
    (hrow : ∀ {w : Word}, w.toNat / 2 ^ 9 = fixed.toNat / 2 ^ 9 →
      decode w = if w.getLsbD 4 then mkImm (nibbleField w 5) (w.extractLsb' 0 4)
        else mkReg (nibbleField w 5) (nibbleField w 0))
    (rd : Reg) (imm4 : BitVec 4) : decode (encodeAImm fixed rd imm4) = mkImm rd imm4 := by
  have hw := encodeAImm_toNat hfixed rd imm4
  have hm : (encodeAImm fixed rd imm4).getLsbD 4 = true := by
    rw [getLsbD_eq_decide, decide_eq_true_iff]; omega
  have hrd : nibbleField (encodeAImm fixed rd imm4) 5 = rd := nibbleField_eq_iff.2 (by omega)
  have himm : (encodeAImm fixed rd imm4).extractLsb' 0 4 = imm4 := extract_eq_iff.2 (by omega)
  rw [hrow (by omega), hm, hrd, himm]
  rfl

theorem decode_encodeSH {mk : Reg → Fin 16 → Instr} (hfixed : fixed.toNat % 2 ^ 8 = 0)
    (hrow : ∀ {w : Word}, w.toNat / 2 ^ 8 = fixed.toNat / 2 ^ 8 → decode w = mk (nibbleField w 4) (nibbleField w 0))
    (rd : Reg) (cnt : Fin 16) : decode (encodeSH fixed rd cnt) = mk rd cnt := by
  have hw := encodeSH_toNat hfixed rd cnt
  have hrd : nibbleField (encodeSH fixed rd cnt) 4 = rd := nibbleField_eq_iff.2 (by omega)
  have hcnt : nibbleField (encodeSH fixed rd cnt) 0 = cnt := nibbleField_eq_iff.2 (by omega)
  rw [hrow (by omega), hrd, hcnt]

theorem decode_encodeB {mk : BitVec 9 → Instr} (hfixed : fixed.toNat % 2 ^ 9 = 0)
    (hrow : ∀ {w : Word}, w.toNat / 2 ^ 9 = fixed.toNat / 2 ^ 9 → decode w = mk (w.extractLsb' 0 9))
    (off9 : BitVec 9) : decode (encodeB fixed off9) = mk off9 := by
  have hw := encodeB_toNat hfixed off9
  have hoff : (encodeB fixed off9).extractLsb' 0 9 = off9 := extract_eq_iff.2 (by omega)
  rw [hrow (by omega), hoff]

theorem decode_encodeF {mk : Fin 16 → Instr} (hfixed : fixed.toNat % 2 ^ 4 = 0)
    (hrow : ∀ {w : Word}, w.toNat / 2 ^ 4 = fixed.toNat / 2 ^ 4 → decode w = mk (nibbleField w 0))
    (idx : Fin 16) : decode (encodeF fixed idx) = mk idx := by
  have hw := encodeF_toNat hfixed idx
  have hidx : nibbleField (encodeF fixed idx) 0 = idx := nibbleField_eq_iff.2 (by omega)
  rw [hrow (by omega), hidx]

theorem decode_encodeI13 (imm13 : BitVec 13) : decode (encodeI13 imm13) = .ldi imm13 := by
  have hw := encodeI13_toNat imm13
  have himm : (encodeI13 imm13).extractLsb' 0 13 = imm13 := extract_eq_iff.2 (by omega)
  rw [decode_ldi (by omega), himm]

theorem decode_encodeMV (rd rs : Reg) (imm2 : BitVec 2) : decode (encodeMV rd rs imm2) = .mov rd rs imm2 := by
  have hw := encodeMV_toNat rd rs imm2
  have hrd : nibbleField (encodeMV rd rs imm2) 6 = rd := nibbleField_eq_iff.2 (by omega)
  have hrs : nibbleField (encodeMV rd rs imm2) 2 = rs := nibbleField_eq_iff.2 (by omega)
  have himm : (encodeMV rd rs imm2).extractLsb' 0 2 = imm2 := extract_eq_iff.2 (by omega)
  rw [decode_mov (by omega), hrd, hrs, himm]

theorem decode_encodeLS (rd : Reg) (imm5 : BitVec 5) : decode (encodeLS rd imm5) = .lsi rd imm5 := by
  have hw := encodeLS_toNat rd imm5
  have hrd : nibbleField (encodeLS rd imm5) 5 = rd := nibbleField_eq_iff.2 (by omega)
  have himm : (encodeLS rd imm5).extractLsb' 0 5 = imm5 := extract_eq_iff.2 (by omega)
  rw [decode_lsi (by omega), hrd, himm]

/-- The decoder undoes the encoder. -/
theorem decode_encode {i : Instr} (h : i.wf = true) : decode (encode i) = i := by
  cases i with
  | ldi imm13 => exact decode_encodeI13 imm13
  | ld rd rb off5 => exact decode_encodeM rfl decode_ld rd rb off5
  | st rd rb off5 => exact decode_encodeM rfl decode_st rd rb off5
  | addReg rd rs => exact decode_encodeAReg rfl decode_add rd rs
  | addImm rd imm4 => exact decode_encodeAImm rfl decode_add rd imm4
  | subReg rd rs => exact decode_encodeAReg rfl decode_sub rd rs
  | subImm rd imm4 => exact decode_encodeAImm rfl decode_sub rd imm4
  | andReg rd rs => exact decode_encodeAReg rfl decode_and rd rs
  | andImm rd imm4 => exact decode_encodeAImm rfl decode_and rd imm4
  | orReg rd rs => exact decode_encodeAReg rfl decode_or rd rs
  | orImm rd imm4 => exact decode_encodeAImm rfl decode_or rd imm4
  | xorReg rd rs => exact decode_encodeAReg rfl decode_xor rd rs
  | xorImm rd imm4 => exact decode_encodeAImm rfl decode_xor rd imm4
  | sl rd cnt => exact decode_encodeSH rfl decode_sl rd cnt
  | sr rd cnt => exact decode_encodeSH rfl decode_sr rd cnt
  | sra rd cnt => exact decode_encodeSH rfl decode_sra rd cnt
  | ror rd cnt => exact decode_encodeSH rfl decode_ror rd cnt
  | jz off9 => exact decode_encodeB rfl decode_jz off9
  | jnz off9 => exact decode_encodeB rfl decode_jnz off9
  | jc off9 => exact decode_encodeB rfl decode_jc off9
  | jnc off9 => exact decode_encodeB rfl decode_jnc off9
  | jn off9 => exact decode_encodeB rfl decode_jn off9
  | jnn off9 => exact decode_encodeB rfl decode_jnn off9
  | jo off9 => exact decode_encodeB rfl decode_jo off9
  | jno off9 => exact decode_encodeB rfl decode_jno off9
  | mov rd rs imm2 => exact decode_encodeMV rd rs imm2
  | lsi rd imm5 => exact decode_encodeLS rd imm5
  | set idx => exact decode_encodeF rfl decode_set idx
  | clr idx => exact decode_encodeF rfl decode_clr idx
  | set2 idx => exact decode_encodeF rfl decode_set2 idx
  | clr2 idx => exact decode_encodeF rfl decode_clr2 idx
  | undef word => exact decode_undef h
  | nop | halt | swi | reti | haltOnes => decide

/-! Every word is an encoding: its fields, placed over the fixed bits of its row, give it again (R62). -/

theorem encodeI13_fields (h : w.toNat / 2 ^ 13 = 0) : encodeI13 (w.extractLsb' 0 13) = w :=
  BitVec.eq_of_toNat_eq (by rw [encodeI13_toNat, extract_toNat]; omega)

theorem encodeM_fields {c : Nat} (h : w.toNat / 2 ^ 13 = c) (hfixed : fixed.toNat = c * 2 ^ 13) :
    encodeM fixed (nibbleField w 9) (nibbleField w 5) (w.extractLsb' 0 5) = w :=
  BitVec.eq_of_toNat_eq (by rw [encodeM_toNat (by omega), nibbleField_val, nibbleField_val, extract_toNat]; omega)

theorem encodeAReg_fields {c : Nat} (hm : w.getLsbD 4 = false) (h : w.toNat / 2 ^ 9 = c)
    (hfixed : fixed.toNat = c * 2 ^ 9) : encodeAReg fixed (nibbleField w 5) (nibbleField w 0) = w := by
  rw [getLsbD_eq_decide, decide_eq_false_iff_not] at hm
  exact BitVec.eq_of_toNat_eq (by rw [encodeAReg_toNat (by omega), nibbleField_val, nibbleField_val]; omega)

theorem encodeAImm_fields {c : Nat} (hm : w.getLsbD 4 = true) (h : w.toNat / 2 ^ 9 = c)
    (hfixed : fixed.toNat = c * 2 ^ 9 + 2 ^ 4) : encodeAImm fixed (nibbleField w 5) (w.extractLsb' 0 4) = w := by
  rw [getLsbD_eq_decide, decide_eq_true_iff] at hm
  exact BitVec.eq_of_toNat_eq (by rw [encodeAImm_toNat (by omega), nibbleField_val, extract_toNat]; omega)

theorem encodeSH_fields {c : Nat} (h : w.toNat / 2 ^ 8 = c) (hfixed : fixed.toNat = c * 2 ^ 8) :
    encodeSH fixed (nibbleField w 4) (nibbleField w 0) = w :=
  BitVec.eq_of_toNat_eq (by rw [encodeSH_toNat (by omega), nibbleField_val, nibbleField_val]; omega)

theorem encodeB_fields {c : Nat} (h : w.toNat / 2 ^ 9 = c) (hfixed : fixed.toNat = c * 2 ^ 9) :
    encodeB fixed (w.extractLsb' 0 9) = w :=
  BitVec.eq_of_toNat_eq (by rw [encodeB_toNat (by omega), extract_toNat]; omega)

theorem encodeMV_fields (h : w.toNat / 2 ^ 10 = 0b111110) :
    encodeMV (nibbleField w 6) (nibbleField w 2) (w.extractLsb' 0 2) = w :=
  BitVec.eq_of_toNat_eq (by rw [encodeMV_toNat, nibbleField_val, nibbleField_val, extract_toNat]; omega)

theorem encodeLS_fields (h : w.toNat / 2 ^ 9 = 0b1111110) : encodeLS (nibbleField w 5) (w.extractLsb' 0 5) = w :=
  BitVec.eq_of_toNat_eq (by rw [encodeLS_toNat, nibbleField_val, extract_toNat]; omega)

theorem encodeF_fields {c : Nat} (h : w.toNat / 2 ^ 4 = c) (hfixed : fixed.toNat = c * 2 ^ 4) :
    encodeF fixed (nibbleField w 0) = w :=
  BitVec.eq_of_toNat_eq (by rw [encodeF_toNat (by omega), nibbleField_val]; omega)

/-- A well-formed instruction encodes to the word. -/
def IsEncoding (w : Word) : Prop := ∃ i : Instr, i.wf = true ∧ encode i = w

theorem isEncoding_of_memory (h : w.toNat / 2 ^ 14 = 0b10) : IsEncoding w := by
  have hop : w.toNat / 2 ^ 13 = 0b100 ∨ w.toNat / 2 ^ 13 = 0b101 := by omega
  obtain hop | hop := hop
  · exact ⟨.ld _ _ _, rfl, encodeM_fields hop rfl⟩
  · exact ⟨.st _ _ _, rfl, encodeM_fields hop rfl⟩

theorem isEncoding_of_alu (h : 0xC000 ≤ w.toNat ∧ w.toNat ≤ 0xC9FF) : IsEncoding w := by
  have hop : w.toNat / 2 ^ 9 = 0b1100000 ∨ w.toNat / 2 ^ 9 = 0b1100001 ∨ w.toNat / 2 ^ 9 = 0b1100010 ∨
      w.toNat / 2 ^ 9 = 0b1100011 ∨ w.toNat / 2 ^ 9 = 0b1100100 := by omega
  cases hm : w.getLsbD 4 with
  | false =>
    obtain hop | hop | hop | hop | hop := hop
    · exact ⟨.addReg _ _, rfl, encodeAReg_fields hm hop rfl⟩
    · exact ⟨.subReg _ _, rfl, encodeAReg_fields hm hop rfl⟩
    · exact ⟨.andReg _ _, rfl, encodeAReg_fields hm hop rfl⟩
    · exact ⟨.orReg _ _, rfl, encodeAReg_fields hm hop rfl⟩
    · exact ⟨.xorReg _ _, rfl, encodeAReg_fields hm hop rfl⟩
  | true =>
    obtain hop | hop | hop | hop | hop := hop
    · exact ⟨.addImm _ _, rfl, encodeAImm_fields hm hop rfl⟩
    · exact ⟨.subImm _ _, rfl, encodeAImm_fields hm hop rfl⟩
    · exact ⟨.andImm _ _, rfl, encodeAImm_fields hm hop rfl⟩
    · exact ⟨.orImm _ _, rfl, encodeAImm_fields hm hop rfl⟩
    · exact ⟨.xorImm _ _, rfl, encodeAImm_fields hm hop rfl⟩

theorem isEncoding_of_shift (h : w.toNat / 2 ^ 10 = 0b110100) : IsEncoding w := by
  have hop : w.toNat / 2 ^ 8 = 0b11010000 ∨ w.toNat / 2 ^ 8 = 0b11010001 ∨ w.toNat / 2 ^ 8 = 0b11010010 ∨
      w.toNat / 2 ^ 8 = 0b11010011 := by omega
  obtain hop | hop | hop | hop := hop
  · exact ⟨.sl _ _, rfl, encodeSH_fields hop rfl⟩
  · exact ⟨.sr _ _, rfl, encodeSH_fields hop rfl⟩
  · exact ⟨.sra _ _, rfl, encodeSH_fields hop rfl⟩
  · exact ⟨.ror _ _, rfl, encodeSH_fields hop rfl⟩

theorem isEncoding_of_branch (h : w.toNat / 2 ^ 12 = 0b1110) : IsEncoding w := by
  have hop : w.toNat / 2 ^ 9 = 0b1110000 ∨ w.toNat / 2 ^ 9 = 0b1110001 ∨ w.toNat / 2 ^ 9 = 0b1110010 ∨
      w.toNat / 2 ^ 9 = 0b1110011 ∨ w.toNat / 2 ^ 9 = 0b1110100 ∨ w.toNat / 2 ^ 9 = 0b1110101 ∨
      w.toNat / 2 ^ 9 = 0b1110110 ∨ w.toNat / 2 ^ 9 = 0b1110111 := by omega
  obtain hop | hop | hop | hop | hop | hop | hop | hop := hop
  · exact ⟨.jz _, rfl, encodeB_fields hop rfl⟩
  · exact ⟨.jnz _, rfl, encodeB_fields hop rfl⟩
  · exact ⟨.jc _, rfl, encodeB_fields hop rfl⟩
  · exact ⟨.jnc _, rfl, encodeB_fields hop rfl⟩
  · exact ⟨.jn _, rfl, encodeB_fields hop rfl⟩
  · exact ⟨.jnn _, rfl, encodeB_fields hop rfl⟩
  · exact ⟨.jo _, rfl, encodeB_fields hop rfl⟩
  · exact ⟨.jno _, rfl, encodeB_fields hop rfl⟩

theorem isEncoding_of_flag (h : w.toNat / 2 ^ 6 = 0b1111111000) : IsEncoding w := by
  have hop : w.toNat / 2 ^ 4 = 0b111111100000 ∨ w.toNat / 2 ^ 4 = 0b111111100001 ∨
      w.toNat / 2 ^ 4 = 0b111111100010 ∨ w.toNat / 2 ^ 4 = 0b111111100011 := by omega
  obtain hop | hop | hop | hop := hop
  · exact ⟨.set _, rfl, encodeF_fields hop rfl⟩
  · exact ⟨.clr _, rfl, encodeF_fields hop rfl⟩
  · exact ⟨.set2 _, rfl, encodeF_fields hop rfl⟩
  · exact ⟨.clr2 _, rfl, encodeF_fields hop rfl⟩

theorem isEncoding_of_system (h : (0xFFF0 ≤ w.toNat ∧ w.toNat ≤ 0xFFF3) ∨ w.toNat = 0xFFFF) : IsEncoding w := by
  have hop : w.toNat = 0xFFF0 ∨ w.toNat = 0xFFF1 ∨ w.toNat = 0xFFF2 ∨ w.toNat = 0xFFF3 ∨ w.toNat = 0xFFFF := by
    omega
  obtain hop | hop | hop | hop | hop := hop
  · exact ⟨.nop, rfl, BitVec.eq_of_toNat_eq hop.symm⟩
  · exact ⟨.halt, rfl, BitVec.eq_of_toNat_eq hop.symm⟩
  · exact ⟨.swi, rfl, BitVec.eq_of_toNat_eq hop.symm⟩
  · exact ⟨.reti, rfl, BitVec.eq_of_toNat_eq hop.symm⟩
  · exact ⟨.haltOnes, rfl, BitVec.eq_of_toNat_eq hop.symm⟩

/-- The families and the unassigned ranges cover the word space (R66, R76). -/
theorem isEncoding (w : Word) : IsEncoding w := by
  have hw : w.toNat < 2 ^ 16 := w.isLt
  by_cases hun : isUnassigned w = true
  · exact ⟨.undef w, hun, rfl⟩
  rw [isUnassigned_iff] at hun
  have hfamily : w.toNat / 2 ^ 13 = 0 ∨ w.toNat / 2 ^ 14 = 0b10 ∨ (0xC000 ≤ w.toNat ∧ w.toNat ≤ 0xC9FF) ∨
      w.toNat / 2 ^ 10 = 0b110100 ∨ w.toNat / 2 ^ 12 = 0b1110 ∨ w.toNat / 2 ^ 10 = 0b111110 ∨
      w.toNat / 2 ^ 9 = 0b1111110 ∨ w.toNat / 2 ^ 6 = 0b1111111000 ∨
      (0xFFF0 ≤ w.toNat ∧ w.toNat ≤ 0xFFF3) ∨ w.toNat = 0xFFFF := by omega
  obtain h | h | h | h | h | h | h | h | h := hfamily
  · exact ⟨.ldi _, rfl, encodeI13_fields h⟩
  · exact isEncoding_of_memory h
  · exact isEncoding_of_alu h
  · exact isEncoding_of_shift h
  · exact isEncoding_of_branch h
  · exact ⟨.mov _ _ _, rfl, encodeMV_fields h⟩
  · exact ⟨.lsi _ _, rfl, encodeLS_fields h⟩
  · exact isEncoding_of_flag h
  · exact isEncoding_of_system h

/-- So the encoder undoes the decoder. -/
theorem decode_wf_and_encode_decode (w : Word) : (decode w).wf = true ∧ encode (decode w) = w := by
  obtain ⟨i, hwf, rfl⟩ := isEncoding w
  rw [decode_encode hwf]
  exact ⟨hwf, rfl⟩

/-- The unassigned words are those that decode to UNDEF, and it carries the word (R76). -/
theorem decode_eq_undef_iff {v : Word} : decode w = .undef v ↔ isUnassigned w = true ∧ v = w := by
  constructor
  · intro h
    obtain ⟨hwf, henc⟩ := decode_wf_and_encode_decode w
    rw [h] at hwf henc
    exact ⟨(henc : v = w) ▸ hwf, henc⟩
  · rintro ⟨h, rfl⟩
    exact decode_undef h

/-- All terms but UNDEF are well formed (R76). -/
theorem wf_of_ne_undef {i : Instr} (hundef : ∀ w, i ≠ .undef w) : i.wf = true := by
  cases i with
  | undef word => exact absurd rfl (hundef word)
  | _ => rfl

end Sys2Proof.Codec

/-! SUPPORT. The rows of the opcode map exclude each other (`30_encoding.md` R67). -/

namespace Sys2Proof.Codec

/-- Two rows differ in a bit that both fix. -/
theorem opcodeTable_disjoint : opcodeTable.Pairwise (fun q r => q.pattern &&& r.mask ≠ r.pattern &&& q.mask) := by
  decide

/-- Such rows share no word. -/
theorem not_matches_both {q r : OpcodeRow} (h : q.pattern &&& r.mask ≠ r.pattern &&& q.mask) (w : Word) :
    ¬ (q.matches w = true ∧ r.matches w = true) := by
  rintro ⟨hq, hr⟩
  simp only [OpcodeRow.matches, beq_iff_eq] at hq hr
  refine h ?_
  rw [← hq, ← hr, BitVec.and_assoc, BitVec.and_assoc, BitVec.and_comm q.mask]

/-- A list keeps just one element when no two pass the test and that one does. -/
theorem filter_eq_singleton {α : Type} {p : α → Bool} {l : List α} {a : α}
    (hl : l.Pairwise fun b c => ¬ (p b = true ∧ p c = true)) (ha : a ∈ l) (hp : p a = true) : l.filter p = [a] := by
  induction l with
  | nil => cases ha
  | cons b l ih =>
    obtain ⟨hb, hl⟩ := List.pairwise_cons.1 hl
    obtain rfl | ha := List.mem_cons.1 ha
    · rw [List.filter_cons_of_pos hp, List.filter_eq_nil_iff.2 fun c hc hpc => hb c hc ⟨hp, hpc⟩]
    · rw [List.filter_cons_of_neg fun hpb => hb a ha ⟨hpb, hp⟩, ih hl ha]

/-- Every instruction's word is in a row of its mnemonic (R66). -/
theorem encodingRow (i : Instr) : Laws.EncodingRow.Statement i := by
  cases i with
  | ldi imm13 => exact Laws.EncodingRow.ldi imm13
  | ld rd rb off5 => exact Laws.EncodingRow.ld rd rb off5
  | st rd rb off5 => exact Laws.EncodingRow.st rd rb off5
  | addReg rd rs => exact Laws.EncodingRow.addReg rd rs
  | addImm rd imm4 => exact Laws.EncodingRow.addImm rd imm4
  | subReg rd rs => exact Laws.EncodingRow.subReg rd rs
  | subImm rd imm4 => exact Laws.EncodingRow.subImm rd imm4
  | andReg rd rs => exact Laws.EncodingRow.andReg rd rs
  | andImm rd imm4 => exact Laws.EncodingRow.andImm rd imm4
  | orReg rd rs => exact Laws.EncodingRow.orReg rd rs
  | orImm rd imm4 => exact Laws.EncodingRow.orImm rd imm4
  | xorReg rd rs => exact Laws.EncodingRow.xorReg rd rs
  | xorImm rd imm4 => exact Laws.EncodingRow.xorImm rd imm4
  | sl rd cnt => exact Laws.EncodingRow.sl rd cnt
  | sr rd cnt => exact Laws.EncodingRow.sr rd cnt
  | sra rd cnt => exact Laws.EncodingRow.sra rd cnt
  | ror rd cnt => exact Laws.EncodingRow.ror rd cnt
  | jz off9 => exact Laws.EncodingRow.jz off9
  | jnz off9 => exact Laws.EncodingRow.jnz off9
  | jc off9 => exact Laws.EncodingRow.jc off9
  | jnc off9 => exact Laws.EncodingRow.jnc off9
  | jn off9 => exact Laws.EncodingRow.jn off9
  | jnn off9 => exact Laws.EncodingRow.jnn off9
  | jo off9 => exact Laws.EncodingRow.jo off9
  | jno off9 => exact Laws.EncodingRow.jno off9
  | mov rd rs imm2 => exact Laws.EncodingRow.mov rd rs imm2
  | lsi rd imm5 => exact Laws.EncodingRow.lsi rd imm5
  | set idx => exact Laws.EncodingRow.set idx
  | clr idx => exact Laws.EncodingRow.clr idx
  | set2 idx => exact Laws.EncodingRow.set2 idx
  | clr2 idx => exact Laws.EncodingRow.clr2 idx
  | nop => exact Laws.EncodingRow.nop
  | halt => exact Laws.EncodingRow.halt
  | swi => exact Laws.EncodingRow.swi
  | reti => exact Laws.EncodingRow.reti
  | haltOnes => exact Laws.EncodingRow.haltOnes
  | undef word => exact Laws.EncodingRow.undef word

end Sys2Proof.Codec

/-! SUPPORT. Jumps: a change of pc is the whole of a branch, and where two branches in a row lead. -/

namespace Sys2Proof.Safety

open Sys2Proof.Machine

/-- Setting pc changes nothing else (`44_branch.md` R141). -/
theorem jumpEffect_setPc (target : Word) (s : State) : JumpEffect target s (s.setPc target) :=
  ⟨⟨setPc_pc s target, fun _ hq => setPc_reg_other s hq target⟩, rfl,
    ⟨⟨rfl, rfl, rfl, rfl⟩, ⟨rfl, rfl, rfl⟩, rfl, rfl⟩, fun _ => rfl⟩

theorem branchTarget_eq_trunc16 (s : State) (off9 : BitVec 9) :
    s.branchTarget off9 = trunc16 ((s.reg Reg.pc).toNat + 1 + off9.toInt) := branchTarget_eq s off9

/-- The target of a branch in the next word. -/
theorem branchTarget_after_seqPc (s : State) (off9 : BitVec 9) :
    (s.setPc s.seqPc).branchTarget off9 = trunc16 ((s.reg Reg.pc).toNat + 2 + off9.toInt) := by
  rw [branchTarget_setPc, seqPc_eq, add_assoc ((s.reg Reg.pc).toNat : Int), trunc16_toNat_add, BitVec.ofInt_add,
    ← add_assoc, sext16_eq, BitVec.add_assoc (s.reg Reg.pc) 1]
  rfl

end Sys2Proof.Safety

namespace Sys2Proof.Machine

/-- JZ with Z clear goes on (`44_branch.md` R142). -/
theorem exec_jz_not_taken {s : State} (hz : s.flagZ = false) (off9 : BitVec 9) :
    exec (.jz off9) s = .next (s.setPc s.seqPc) := by
  rw [exec_eq, effectOf, State.branchGoal, hz]
  rfl

/-- JNZ with Z clear goes to its target (`44_branch.md` R143). -/
theorem exec_jnz_taken {s : State} (hz : s.flagZ = false) (off9 : BitVec 9) :
    exec (.jnz off9) s = .next (s.setPc (s.branchTarget off9)) := by
  rw [exec_eq, effectOf, State.branchGoal, hz]
  rfl

/-- The high thirteen bits of a word, shifted back up, and its low three make it up again. -/
theorem shiftLeft_or_low (k : Word) :
    (slResult (zext16 (k.extractLsb' 3 13)) 3).value ||| zext16 ((k.extractLsb' 0 3).setWidth 4) = k := by
  refine BitVec.eq_of_getLsbD_eq fun i hi => ?_
  by_cases h3 : i < 3
  · simp [slResult, zext16, hi, h3]
  · have hback : 3 + (i - 3) = i := by omega
    have hin : i - 3 < 13 := by omega
    simp [slResult, zext16, hi, h3, hback, hin]

end Sys2Proof.Machine

/-! SUPPORT. The assembler, form by form (`30_encoding.md` R78, R82 to R84): what it answers for a number, for a
literal that is none, for register names alone, and for a token that names no register. -/

namespace Sys2Proof.Assembler

open Sys2Proof.Safety Sys2Proof.Laws.Asm

variable (labels : Labels) (addr : Word)

/-! Which form each family of mnemonics takes. -/

section
variable (ops : List Token)

theorem assemble_of_branchForms {p : String × (BitVec 9 → Instr)} (hp : p ∈ branchForms) :
    assemble labels addr p.1 ops = asmBranch labels addr p.2 ops := by
  simp only [branchForms, List.mem_cons, List.not_mem_nil, or_false] at hp
  obtain rfl | rfl | rfl | rfl | rfl | rfl | rfl | rfl := hp <;> rfl

theorem assemble_of_flagForms {p : String × (Fin 16 → Instr)} (hp : p ∈ flagForms) :
    assemble labels addr p.1 ops = asmFlag labels p.2 ops := by
  simp only [flagForms, List.mem_cons, List.not_mem_nil, or_false] at hp
  obtain rfl | rfl | rfl | rfl := hp <;> rfl

theorem assemble_of_shiftForms {p : String × (Reg → Fin 16 → Instr)} (hp : p ∈ shiftForms) :
    assemble labels addr p.1 ops = asmShift labels p.2 ops := by
  simp only [shiftForms, List.mem_cons, List.not_mem_nil, or_false] at hp
  obtain rfl | rfl | rfl | rfl := hp <;> rfl

theorem assemble_of_memoryForms {p : String × (Reg → Reg → BitVec 5 → Instr)} (hp : p ∈ memoryForms) :
    assemble labels addr p.1 ops = asmMemory labels p.2 ops := by
  simp only [memoryForms, List.mem_cons, List.not_mem_nil, or_false] at hp
  obtain rfl | rfl := hp <;> rfl

theorem assemble_of_aluForms {p : String × (Reg → Reg → Instr) × (Reg → BitVec 4 → Instr)} (hp : p ∈ aluForms) :
    assemble labels addr p.1 ops = asmAlu labels p.2.1 p.2.2 ops := by
  simp only [aluForms, List.mem_cons, List.not_mem_nil, or_false] at hp
  obtain rfl | rfl | rfl | rfl | rfl := hp <;> rfl

end

/-! The forms over their checked operands. -/

section
variable {d b : Token} {rd rb : Reg} (k : Token)

theorem asmLdi_eq : asmLdi labels [k] = immediate labels 0 8191 k >>= fun m => pure (.ldi (BitVec.ofInt 13 m)) := rfl

theorem asmBranch_eq (mk : BitVec 9 → Instr) :
    asmBranch labels addr mk [k] = branchOffset labels addr k >>= fun off => pure (mk off) := rfl

theorem asmFlag_eq (mk : Fin 16 → Instr) :
    asmFlag labels mk [k] = flagIndex labels k >>= fun idx => pure (mk idx) := rfl

variable (hd : NamesRegister d rd) (hb : NamesRegister b rb)

include hd

theorem asmLsi_eq :
    asmLsi labels [d, k] = immediate labels (-16) 15 k >>= fun m => pure (.lsi rd (BitVec.ofInt 5 m)) := by
  rw [asmLsi, tokenReg_of_names hd, ok_bind]

theorem asmShift_eq (mk : Reg → Fin 16 → Instr) :
    asmShift labels mk [d, k] = immediate labels 0 15 k >>= fun m => pure (mk rd (BitVec.ofInt 4 m).toFin) := by
  rw [asmShift, tokenReg_of_names hd, ok_bind]

/-- What names no register is the immediate of an ALU instruction (R83). -/
theorem asmAlu_eq {k : Token} {e : EncodingError} (hk : tokenReg k = .error e) (mkReg : Reg → Reg → Instr)
    (mkImm : Reg → BitVec 4 → Instr) : asmAlu labels mkReg mkImm [d, k] =
      immediate labels 0 15 k >>= fun m => pure (mkImm rd (BitVec.ofInt 4 m)) := by
  rw [asmAlu, tokenReg_of_names hd, ok_bind, hk]

include hb

theorem asmAlu_registers (mkReg : Reg → Reg → Instr) (mkImm : Reg → BitVec 4 → Instr) :
    asmAlu labels mkReg mkImm [d, b] = .ok (mkReg rd rb) := by
  rw [asmAlu, tokenReg_of_names hd, ok_bind, tokenReg_of_names hb]
  rfl

theorem asmMov_registers : asmMov labels [d, b] = .ok (.mov rd rb 0) := by
  rw [asmMov, tokenReg_of_names hd, ok_bind, tokenReg_of_names hb]
  rfl

theorem asmMov_eq :
    asmMov labels [d, b, k] = immediate labels 0 3 k >>= fun m => pure (.mov rd rb (BitVec.ofInt 2 m)) := by
  rw [asmMov, tokenReg_of_names hd, ok_bind, tokenReg_of_names hb, ok_bind]

theorem asmMemory_registers (mk : Reg → Reg → BitVec 5 → Instr) :
    asmMemory labels mk [d, b] = .ok (mk rd rb 0) := by
  rw [asmMemory, tokenReg_of_names hd, ok_bind, tokenReg_of_names hb]
  rfl

theorem asmMemory_eq (mk : Reg → Reg → BitVec 5 → Instr) : asmMemory labels mk [d, b, k] =
    immediate labels (-16) 15 k >>= fun m => pure (mk rd rb (BitVec.ofInt 5 m)) := by
  rw [asmMemory, tokenReg_of_names hd, ok_bind, tokenReg_of_names hb, ok_bind]

end

/-! A numeric operand: an instruction in its range, the error of its kind outside it (R78). -/

section
variable {k : Token} {n : Int} (hk : NamesNumber k n)

include hk

theorem immediate_of_number (lo hi : Int) (f : Int → Instr) :
    (immediate labels lo hi k >>= fun m => pure (f m)) = inRange lo hi n (f n) (.invalidImmediate k) := by
  rw [immediate, tokenValue_of_names labels hk, ok_bind, inRange]
  split <;> rfl

theorem branchOffset_of_number (f : BitVec 9 → Instr) :
    (branchOffset labels addr k >>= fun off => pure (f off)) =
      inRange (-256) 255 (n - (addr.toNat + 1)) (f (BitVec.ofInt 9 (n - (addr.toNat + 1))))
        (.branchRangeExceeded k (n - (addr.toNat + 1))) := by
  rw [branchOffset, tokenValue_of_names labels hk, ok_bind, inRange]
  dsimp only
  split <;> rfl

theorem flagIndex_of_number (f : Fin 16 → Instr) : (flagIndex labels k >>= fun idx => pure (f idx)) =
    inRange 0 15 n (f (BitVec.ofInt 4 n).toFin) (.flagIndexOutOfRange k) := by
  rw [flagIndex, tokenValue_of_names labels hk, ok_bind, inRange]
  split <;> rfl

end

/-! A literal that is no number (R78). -/

section
variable {text : String} (h : literalValue text = none)

include h

theorem immediate_of_unparsable (lo hi : Int) :
    immediate labels lo hi (.literal text) = .error (.invalidImmediate (.literal text)) := by
  rw [immediate, tokenValue_of_unparsable labels h, error_bind]

theorem branchOffset_of_unparsable :
    branchOffset labels addr (.literal text) = .error (.invalidImmediate (.literal text)) := by
  rw [branchOffset, tokenValue_of_unparsable labels h, error_bind]

theorem flagIndex_of_unparsable : flagIndex labels (.literal text) = .error (.invalidImmediate (.literal text)) := by
  rw [flagIndex, tokenValue_of_unparsable labels h, error_bind]

end

/-! A token that names no register, where one is wanted (R82): the first such position is reported. -/

section
variable {t : Token} (ht : tokenReg t = .error (.unknownRegister t)) (u v : Token)

include ht

theorem asmMov_unknown : asmMov labels [t, u] = .error (.unknownRegister t) ∧
    asmMov labels [t, u, v] = .error (.unknownRegister t) := by
  simp only [asmMov, ht, error_bind, and_self]

theorem asmMemory_unknown (mk : Reg → Reg → BitVec 5 → Instr) :
    asmMemory labels mk [t, u] = .error (.unknownRegister t) ∧
      asmMemory labels mk [t, u, v] = .error (.unknownRegister t) := by
  simp only [asmMemory, ht, error_bind, and_self]

theorem asmLsi_unknown : asmLsi labels [t, u] = .error (.unknownRegister t) := by rw [asmLsi, ht, error_bind]

theorem asmShift_unknown (mk : Reg → Fin 16 → Instr) : asmShift labels mk [t, u] = .error (.unknownRegister t) := by
  rw [asmShift, ht, error_bind]

theorem asmAlu_unknown (mkReg : Reg → Reg → Instr) (mkImm : Reg → BitVec 4 → Instr) :
    asmAlu labels mkReg mkImm [t, u] = .error (.unknownRegister t) := by
  rw [asmAlu, ht, error_bind]

theorem assemble_unknown {m : String} (hm : m ∈ registerFirst) :
    assemble labels addr m [t, u] = .error (.unknownRegister t) := by
  simp only [registerFirst, List.mem_cons, List.not_mem_nil, or_false] at hm
  obtain rfl | rfl | rfl | rfl | rfl | rfl | rfl | rfl | rfl | hshift := hm
  · exact (asmMov_unknown labels ht u u).1
  · exact asmLsi_unknown labels ht u
  · exact (asmMemory_unknown labels ht u u .ld).1
  · exact (asmMemory_unknown labels ht u u .st).1
  · exact asmAlu_unknown labels ht u .addReg .addImm
  · exact asmAlu_unknown labels ht u .subReg .subImm
  · exact asmAlu_unknown labels ht u .andReg .andImm
  · exact asmAlu_unknown labels ht u .orReg .orImm
  · exact asmAlu_unknown labels ht u .xorReg .xorImm
  · obtain rfl | rfl | rfl | rfl := hshift <;> exact asmShift_unknown labels ht u _

variable {d : Token} {rd : Reg} (hd : NamesRegister d rd)

include hd

theorem asmMov_unknown_second : asmMov labels [d, t] = .error (.unknownRegister t) ∧
    asmMov labels [d, t, v] = .error (.unknownRegister t) := by
  simp only [asmMov, tokenReg_of_names hd, ok_bind, ht, error_bind, and_self]

theorem asmMemory_unknown_second (mk : Reg → Reg → BitVec 5 → Instr) :
    asmMemory labels mk [d, t] = .error (.unknownRegister t) ∧
      asmMemory labels mk [d, t, v] = .error (.unknownRegister t) := by
  simp only [asmMemory, tokenReg_of_names hd, ok_bind, ht, error_bind, and_self]

end

/-! The tokens of an instruction assemble to it (R79): its registers under their names, its numbers in range. -/

theorem namesRegister_regName (r : Reg) : NamesRegister (.name (regName r)) r := ⟨_, rfl, by revert r; decide⟩

theorem inRange_unsigned {w : Nat} {hi : Int} (hhi : hi = 2 ^ w - 1) (mk : BitVec w → Instr) (f : BitVec w)
    (e : EncodingError) : inRange 0 hi f.toNat (mk (BitVec.ofInt w f.toNat)) e = .ok (mk f) := by
  have hlt : (f.toNat : Int) < 2 ^ w := by exact_mod_cast f.isLt
  rw [inRange, if_pos (by omega), BitVec.ofInt_natCast, BitVec.ofNat_toNat, BitVec.setWidth_eq]

theorem inRange_signed {w : Nat} {lo hi : Int} (hlo : lo = -2 ^ (w - 1)) (hhi : hi = 2 ^ (w - 1) - 1)
    (mk : BitVec w → Instr) (f : BitVec w) (e : EncodingError) :
    inRange lo hi f.toInt (mk (BitVec.ofInt w f.toInt)) e = .ok (mk f) := by
  have hge := BitVec.le_toInt f
  have hlt := BitVec.toInt_lt (x := f)
  rw [inRange, if_pos (by omega), BitVec.ofInt_toInt]

theorem inRange_nibble (mk : Fin 16 → Instr) (r : Fin 16) (e : EncodingError) :
    inRange 0 15 r.val (mk (BitVec.ofInt 4 r.val).toFin) e = .ok (mk r) :=
  inRange_unsigned rfl (fun f : BitVec 4 => mk f.toFin) (BitVec.ofFin r) e

section
variable (rd rs : Reg)

theorem asmLdi_tokens (imm13 : BitVec 13) : asmLdi labels [.num imm13.toNat] = .ok (.ldi imm13) := by
  rw [asmLdi_eq, immediate_of_number labels (.inl rfl)]
  exact inRange_unsigned rfl _ _ _

theorem asmMemory_tokens (mk : Reg → Reg → BitVec 5 → Instr) (off5 : BitVec 5) :
    asmMemory labels mk [.name (regName rd), .name (regName rs), .num off5.toInt] = .ok (mk rd rs off5) := by
  rw [asmMemory_eq labels _ (namesRegister_regName rd) (namesRegister_regName rs),
    immediate_of_number labels (.inl rfl)]
  exact inRange_signed rfl rfl _ _ _

theorem asmAluReg_tokens (mkReg : Reg → Reg → Instr) (mkImm : Reg → BitVec 4 → Instr) :
    asmAlu labels mkReg mkImm [.name (regName rd), .name (regName rs)] = .ok (mkReg rd rs) :=
  asmAlu_registers labels (namesRegister_regName rd) (namesRegister_regName rs) mkReg mkImm

theorem asmAluImm_tokens (mkReg : Reg → Reg → Instr) (mkImm : Reg → BitVec 4 → Instr) (imm4 : BitVec 4) :
    asmAlu labels mkReg mkImm [.name (regName rd), .num imm4.toNat] = .ok (mkImm rd imm4) := by
  rw [asmAlu_eq labels (namesRegister_regName rd) rfl, immediate_of_number labels (.inl rfl)]
  exact inRange_unsigned rfl _ _ _

theorem asmShift_tokens (mk : Reg → Fin 16 → Instr) (cnt : Fin 16) :
    asmShift labels mk [.name (regName rd), .num cnt.val] = .ok (mk rd cnt) := by
  rw [asmShift_eq labels _ (namesRegister_regName rd), immediate_of_number labels (.inl rfl), inRange_nibble]

theorem asmBranch_tokens (mk : BitVec 9 → Instr) (off9 : BitVec 9) :
    asmBranch labels addr mk [.num (addr.toNat + 1 + off9.toInt)] = .ok (mk off9) := by
  rw [asmBranch_eq, branchOffset_of_number labels addr (.inl rfl), add_sub_cancel_left]
  exact inRange_signed rfl rfl _ _ _

theorem asmMov_tokens (imm2 : BitVec 2) :
    asmMov labels [.name (regName rd), .name (regName rs), .num imm2.toNat] = .ok (.mov rd rs imm2) := by
  rw [asmMov_eq labels _ (namesRegister_regName rd) (namesRegister_regName rs),
    immediate_of_number labels (.inl rfl)]
  exact inRange_unsigned rfl _ _ _

theorem asmLsi_tokens (imm5 : BitVec 5) :
    asmLsi labels [.name (regName rd), .num imm5.toInt] = .ok (.lsi rd imm5) := by
  rw [asmLsi_eq labels _ (namesRegister_regName rd), immediate_of_number labels (.inl rfl)]
  exact inRange_signed rfl rfl _ _ _

theorem asmFlag_tokens (mk : Fin 16 → Instr) (idx : Fin 16) : asmFlag labels mk [.num idx.val] = .ok (mk idx) := by
  rw [asmFlag_eq, flagIndex_of_number labels (.inl rfl), inRange_nibble]

end

/-- The assembler reads back what an assigned instruction is written as; the all-ones HALT has no source of its own
(R85). -/
theorem assemble_tokens {i : Instr} (hundef : ∀ w, i ≠ .undef w) (hones : i ≠ .haltOnes) :
    assemble labels addr i.mnemonic (i.tokens addr) = .ok i := by
  cases i with
  | ldi imm13 => exact (assemble_ldi _ _ _).trans (asmLdi_tokens labels imm13)
  | ld rd rb off5 => exact (assemble_ld _ _ _).trans (asmMemory_tokens labels rd rb _ off5)
  | st rd rb off5 => exact (assemble_st _ _ _).trans (asmMemory_tokens labels rd rb _ off5)
  | addReg rd rs => exact (assemble_add _ _ _).trans (asmAluReg_tokens labels rd rs _ _)
  | addImm rd imm4 => exact (assemble_add _ _ _).trans (asmAluImm_tokens labels rd _ _ imm4)
  | subReg rd rs => exact (assemble_sub _ _ _).trans (asmAluReg_tokens labels rd rs _ _)
  | subImm rd imm4 => exact (assemble_sub _ _ _).trans (asmAluImm_tokens labels rd _ _ imm4)
  | andReg rd rs => exact (assemble_and _ _ _).trans (asmAluReg_tokens labels rd rs _ _)
  | andImm rd imm4 => exact (assemble_and _ _ _).trans (asmAluImm_tokens labels rd _ _ imm4)
  | orReg rd rs => exact (assemble_or _ _ _).trans (asmAluReg_tokens labels rd rs _ _)
  | orImm rd imm4 => exact (assemble_or _ _ _).trans (asmAluImm_tokens labels rd _ _ imm4)
  | xorReg rd rs => exact (assemble_xor _ _ _).trans (asmAluReg_tokens labels rd rs _ _)
  | xorImm rd imm4 => exact (assemble_xor _ _ _).trans (asmAluImm_tokens labels rd _ _ imm4)
  | sl rd cnt => exact (assemble_sl _ _ _).trans (asmShift_tokens labels rd _ cnt)
  | sr rd cnt => exact (assemble_sr _ _ _).trans (asmShift_tokens labels rd _ cnt)
  | sra rd cnt => exact (assemble_sra _ _ _).trans (asmShift_tokens labels rd _ cnt)
  | ror rd cnt => exact (assemble_ror _ _ _).trans (asmShift_tokens labels rd _ cnt)
  | jz off9 => exact (assemble_jz _ _ _).trans (asmBranch_tokens labels addr _ off9)
  | jnz off9 => exact (assemble_jnz _ _ _).trans (asmBranch_tokens labels addr _ off9)
  | jc off9 => exact (assemble_jc _ _ _).trans (asmBranch_tokens labels addr _ off9)
  | jnc off9 => exact (assemble_jnc _ _ _).trans (asmBranch_tokens labels addr _ off9)
  | jn off9 => exact (assemble_jn _ _ _).trans (asmBranch_tokens labels addr _ off9)
  | jnn off9 => exact (assemble_jnn _ _ _).trans (asmBranch_tokens labels addr _ off9)
  | jo off9 => exact (assemble_jo _ _ _).trans (asmBranch_tokens labels addr _ off9)
  | jno off9 => exact (assemble_jno _ _ _).trans (asmBranch_tokens labels addr _ off9)
  | mov rd rs imm2 => exact (assemble_mov _ _ _).trans (asmMov_tokens labels rd rs imm2)
  | lsi rd imm5 => exact (assemble_lsi _ _ _).trans (asmLsi_tokens labels rd imm5)
  | set idx => exact (assemble_set _ _ _).trans (asmFlag_tokens labels _ idx)
  | clr idx => exact (assemble_clr _ _ _).trans (asmFlag_tokens labels _ idx)
  | set2 idx => exact (assemble_set2 _ _ _).trans (asmFlag_tokens labels _ idx)
  | clr2 idx => exact (assemble_clr2 _ _ _).trans (asmFlag_tokens labels _ idx)
  | nop | halt | swi | reti => rfl
  | haltOnes => exact absurd rfl hones
  | undef word => exact absurd rfl (hundef word)

theorem assembleWord_tokens {i : Instr} (hundef : ∀ w, i ≠ .undef w) (hones : i ≠ .haltOnes) :
    assembleWord labels addr i.mnemonic (i.tokens addr) = .ok (encode i) := by
  rw [assembleWord, assemble_tokens labels addr hundef hones]
  rfl

end Sys2Proof.Assembler

/-! The settled statements about the encoding (`30_encoding.md`). -/

namespace Sys2Proof.Proofs

open Sys2Proof.Machine Sys2Proof.Safety Sys2Proof.Codec Sys2Proof.Assembler Sys2Proof.Laws.Asm

/-- Settles O9, format by format: the encoder adds the fields up and the row's equation of the decoder reads them. -/
theorem decodeOfEncode : Obligations.DecodeOfEncode := fun _ => decode_encode

/-- Settles O10: every word is the encoding of a well-formed instruction, which O9 says it decodes to. -/
theorem encodeOfDecode : Obligations.EncodeOfDecode := decode_wf_and_encode_decode

/-- Settles O11: the tokens of an instruction assemble to it, and O9 and O10 go between it and its word. -/
theorem assemblerRoundTrip : Obligations.AssemblerRoundTrip := by
  refine fun addr => ⟨fun i hundef hones => ?_, fun w hassigned hne => ?_, ?_⟩
  · exact ⟨encode i, assembleWord_tokens [] addr hundef hones, decode_encode (wf_of_ne_undef hundef)⟩
  · have henc := (decode_wf_and_encode_decode w).2
    have hundef : ∀ v, decode w ≠ .undef v := fun v hv => by
      rw [(decode_eq_undef_iff.1 hv).1] at hassigned
      cases hassigned
    have hones : decode w ≠ .haltOnes := fun hv => hne (by rw [← henc, hv]; rfl)
    rw [assembleWord_tokens [] addr hundef hones, henc]
  · have hdecode : decode 0xFFFF = .haltOnes := by decide
    rw [hdecode]
    rfl

/-- Settles O12: the row of the decoded instruction matches, and the rows exclude each other. -/
theorem opcodeMapPartitionsWords : Obligations.OpcodeMapPartitionsWords := by
  intro w
  obtain ⟨hwf, henc⟩ := decode_wf_and_encode_decode w
  obtain ⟨r, hr, hmnemonic, hmatch⟩ := encodingRow (decode w) hwf
  rw [henc] at hmatch
  exact ⟨r, filter_eq_singleton (opcodeTable_disjoint.imp (not_matches_both · w)) hr hmatch, hmnemonic⟩

/-- Settles O13: by O9 and O10 a word decodes to UNDEF just when it is unassigned, and UNDEF only moves pc. -/
theorem unassignedWordsAreNoOps : Obligations.UnassignedWordsAreNoOps := by
  intro w
  refine ⟨?_, fun v hv s => ⟨s.setPc s.seqPc, by rw [hv, exec_eq]; rfl, ?_⟩⟩
  · rw [← isUnassigned_iff]
    exact ⟨fun ⟨v, hv⟩ => (decode_eq_undef_iff.1 hv).1, fun h => ⟨w, decode_undef h⟩⟩
  · rw [← seqPc_eq_trunc16]
    exact jumpEffect_setPc _ s

/-- Settles O45: register 0 after each of the three instructions. -/
theorem constantIdiomBuildsAnyWord : Obligations.ConstantIdiomBuildsAnyWord := by
  intro k s
  refine ⟨_, _, _, exec_eq _ _, exec_eq _ _, exec_eq _ _, ?_, fun q h0 hpc => ?_⟩
  · simp only [effectOf, Effect.apply, writeResult_reg, writeDest_reg, if_true]
    exact shiftLeft_or_low k
  · simp only [effectOf, Effect.apply, writeResult_reg, writeDest_reg, if_neg h0, if_neg hpc]

/-- Settles O8: each word by computation. -/
theorem workedEncodingsDecode : Obligations.WorkedEncodingsDecode := by
  unfold Obligations.WorkedEncodingsDecode
  decide

/-- Settles O15: each of the twelve names stands for its flag instruction without operands. -/
theorem flagAliasesAssemble : Obligations.FlagAliasesAssemble := fun _ =>
  ⟨rfl, rfl, rfl, rfl, rfl, rfl, rfl, rfl, rfl, rfl, rfl, rfl⟩

/-- Settles O16, clause by clause: a number, a literal that is none, register names alone, a token that names no
register; in each the mnemonic gives the form and the form gives the answer. -/
theorem assemblerRefusesOutOfRange : Obligations.AssemblerRefusesOutOfRange := by
  intro labels addr
  refine ⟨fun n k hk => ?_, fun text htext => ?_, fun d b rd rb hd hb => ?_, fun t hnone u v => ?_⟩
  · refine ⟨fun p hp => ?_, fun p hp => ?_, ?_, fun d b rd rb hd hb =>
      ⟨?_, ?_, fun p hp => ?_, fun p hp => ?_, fun p hp => ?_⟩⟩
    · rw [assemble_of_branchForms labels addr _ hp, asmBranch_eq, branchOffset_of_number labels addr hk]
    · rw [assemble_of_flagForms labels addr _ hp, asmFlag_eq, flagIndex_of_number labels hk]
    · rw [assemble_ldi, asmLdi_eq, immediate_of_number labels hk]
    · rw [assemble_lsi, asmLsi_eq labels k hd, immediate_of_number labels hk]
    · rw [assemble_mov, asmMov_eq labels k hd hb, immediate_of_number labels hk]
    · rw [assemble_of_memoryForms labels addr _ hp, asmMemory_eq labels k hd hb, immediate_of_number labels hk]
    · rw [assemble_of_aluForms labels addr _ hp, asmAlu_eq labels hd (tokenReg_of_number hk),
        immediate_of_number labels hk]
    · rw [assemble_of_shiftForms labels addr _ hp, asmShift_eq labels k hd, immediate_of_number labels hk]
  · have himm := immediate_of_unparsable labels htext
    refine ⟨fun p hp => ?_, fun p hp => ?_, ?_, fun d b rd rb hd hb =>
      ⟨?_, ?_, fun p hp => ?_, fun p hp => ?_, fun p hp => ?_⟩⟩
    · rw [assemble_of_branchForms labels addr _ hp, asmBranch_eq, branchOffset_of_unparsable labels addr htext,
        error_bind]
    · rw [assemble_of_flagForms labels addr _ hp, asmFlag_eq, flagIndex_of_unparsable labels htext, error_bind]
    · rw [assemble_ldi, asmLdi_eq, himm, error_bind]
    · rw [assemble_lsi, asmLsi_eq labels _ hd, himm, error_bind]
    · rw [assemble_mov, asmMov_eq labels _ hd hb, himm, error_bind]
    · rw [assemble_of_memoryForms labels addr _ hp, asmMemory_eq labels _ hd hb, himm, error_bind]
    · rw [assemble_of_aluForms labels addr _ hp, asmAlu_eq labels hd rfl, himm, error_bind]
    · rw [assemble_of_shiftForms labels addr _ hp, asmShift_eq labels _ hd, himm, error_bind]
  · refine ⟨?_, fun p hp => ?_, fun p hp => ?_⟩
    · rw [assemble_mov, asmMov_registers labels hd hb]
    · rw [assemble_of_memoryForms labels addr _ hp, asmMemory_registers labels hd hb]
    · rw [assemble_of_aluForms labels addr _ hp, asmAlu_registers labels hd hb]
  · have ht := tokenReg_of_not_names hnone
    refine ⟨fun m hm => assemble_unknown labels addr ht u hm, fun m hm => ?_, fun d rd hd m hm => ?_⟩
    all_goals
      simp only [List.mem_cons, List.not_mem_nil, or_false] at hm
      obtain rfl | rfl | rfl := hm
    · exact (asmMov_unknown labels ht u v).2
    · exact (asmMemory_unknown labels ht u v _).2
    · exact (asmMemory_unknown labels ht u v _).2
    · exact asmMov_unknown_second labels ht v hd
    · exact asmMemory_unknown_second labels ht v hd _
    · exact asmMemory_unknown_second labels ht v hd _

/-- Settles O46: with Z set the first branch goes to the target, with Z clear it goes on and the second one does. -/
theorem complementaryBranchesJump : Obligations.ComplementaryBranchesJump := by
  intro s target off off' hfirst hsecond
  cases hz : s.flagZ with
  | true =>
    refine ⟨_, exec_jz_taken hz off, .inl ?_⟩
    rw [hfirst, ← branchTarget_eq_trunc16]
    exact setPc_pc _ _
  | false =>
    refine ⟨_, exec_jz_not_taken hz off, .inr ⟨?_, _, exec_jnz_taken (s := s.setPc s.seqPc) hz off', ?_⟩⟩
    · rw [← seqPc_eq_trunc16]
      exact setPc_pc _ _
    · rw [hsecond, ← branchTarget_after_seqPc]
      exact setPc_pc _ _

end Sys2Proof.Proofs

/-! SUPPORT. Fields and zero-extended operands as the statements of the instructions write them (`00_scope.md` R9,
`30_encoding.md` R65), and the data moves as destination writes (`40_data_move.md`). -/

namespace Sys2Proof.Safety

open Sys2Proof.Machine

/-- A field's number modulo 65536 is the field zero-extended (`00_scope.md` R9). -/
theorem trunc16_toNat_eq_zext16 {n : Nat} (v : BitVec n) : trunc16 v.toNat = zext16 v := by
  rw [trunc16, BitVec.ofInt_natCast, zext16_eq]

/-- The statements' field in its place is the encoder's. -/
theorem fieldAt_toNat_eq_place {n : Nat} (lo : Nat) (f : BitVec n) : fieldAt lo f.toNat = place lo f := by
  rw [fieldAt, trunc16_toNat_eq_zext16, zext16, place]

theorem fieldAt_val_eq_placeNibble (lo : Nat) (r : Fin 16) : fieldAt lo r.val = placeNibble lo r :=
  fieldAt_toNat_eq_place lo (BitVec.ofFin r : BitVec 4)

end Sys2Proof.Safety

namespace Sys2Proof.Machine

open Sys2Proof.Safety

/-- MOV writes the sum of source and zero-extended immediate to its destination (`40_data_move.md` R91). -/
theorem exec_mov (rd rs : Reg) (imm2 : BitVec 2) (s : State) :
    exec (.mov rd rs imm2) s = .next (s.writeDest rd (trunc16 ((s.reg rs).toNat + imm2.toNat))) := by
  rw [trunc16_toNat_add, ← trunc16, trunc16_toNat_eq_zext16]
  rfl

/-- LSI writes the sign-extended immediate to its destination (`40_data_move.md` R92). -/
theorem exec_lsi (rd : Reg) (imm5 : BitVec 5) (s : State) :
    exec (.lsi rd imm5) s = .next (s.writeDest rd (trunc16 imm5.toInt)) := by
  rw [trunc16, ← sext16_eq]
  rfl

end Sys2Proof.Machine

/-! The settled statements about the data moves (`40_data_move.md`). -/

namespace Sys2Proof.Proofs

open Sys2Proof.Machine Sys2Proof.Safety

/-- Settles O22: the encoder places the same three fields, and MOV is a destination write of the sum. -/
theorem movEffect : Obligations.MovEffect := by
  refine fun rd rs imm2 => ⟨?_, fun s => ⟨_, exec_mov rd rs imm2 s, registerEffect_writeDest rd _ s⟩⟩
  rw [fieldAt_val_eq_placeNibble, fieldAt_val_eq_placeNibble, fieldAt_toNat_eq_place, encode, encodeMV]

/-- Settles O23: the encoder places the same two fields, and LSI is a destination write of the signed immediate. -/
theorem lsiEffect : Obligations.LsiEffect := by
  refine fun rd imm5 => ⟨?_, fun s => ⟨_, exec_lsi rd imm5 s, registerEffect_writeDest rd _ s⟩⟩
  rw [fieldAt_val_eq_placeNibble, fieldAt_toNat_eq_place, encode, encodeLS]

end Sys2Proof.Proofs

/-! SUPPORT. The result write with its flags and whole frame (`41_alu.md` R101, R102), and the ALU's results in the
integers of the statements (R103 to R107). -/

namespace Sys2Proof.Machine

/-! The destination and the four flags after a result is written. -/

section
variable (s : State) (rd : Reg) (r : AluResult)

@[simp] theorem writeResult_reg_dest : (s.writeResult rd r).reg rd = r.value := by
  rw [writeResult_reg, if_pos rfl]

@[simp] theorem writeResult_flagN : (s.writeResult rd r).flagN = r.value.msb := pswWithFlags_n ..
@[simp] theorem writeResult_flagZ : (s.writeResult rd r).flagZ = (r.value == 0) := pswWithFlags_z ..
@[simp] theorem writeResult_flagV : (s.writeResult rd r).flagV = r.overflow := pswWithFlags_v ..
@[simp] theorem writeResult_flagC : (s.writeResult rd r).flagC = r.carry := pswWithFlags_c ..

end

/-! V and the comparisons as facts about the signed operands (`41_alu.md` R103, R104, R108). -/

variable (a b : Word)

theorem addResult_overflow : (addResult a b).overflow = a.saddOverflow b :=
  (BitVec.saddOverflow_eq a b).symm

theorem addResult_overflow_iff :
    (addResult a b).overflow = true ↔ ¬ (-32768 ≤ a.toInt + b.toInt ∧ a.toInt + b.toInt ≤ 32767) := by
  rw [addResult_overflow, BitVec.saddOverflow, Bool.or_eq_true, decide_eq_true_iff, decide_eq_true_iff]
  omega

theorem subResult_value_eq_zero_iff : (subResult a b).value = 0 ↔ a = b := by
  rw [subResult, BitVec.sub_eq_iff_eq_add, zero_add]

/-- Operands of one sign cannot overflow and the result's sign compares them; of two signs, the left one's compares
them, and V says whether the result's is another. -/
theorem subResult_sign_ne_overflow_iff :
    (subResult a b).value.msb ≠ (subResult a b).overflow ↔ a.toInt < b.toInt := by
  by_cases hsign : a.msb = b.msb
  · have hfits : ¬ a.ssubOverflow b = true := by simp [BitVec.ssubOverflow_eq, hsign]
    have hsub : (a - b).toInt = a.toInt - b.toInt := BitVec.toInt_sub_of_not_ssubOverflow hfits
    have hv : (subResult a b).overflow = false := by simp [subResult, hsign]
    rw [hv, Bool.ne_false_iff, subResult, BitVec.msb_eq_toInt, hsub, decide_eq_true_iff]
    omega
  · have hv : (subResult a b).overflow = ((a - b).msb != a.msb) := by simp [subResult, hsign]
    have hleft : (subResult a b).value.msb ≠ (subResult a b).overflow ↔ a.msb = true := by
      rw [hv, subResult]
      cases a.msb <;> simp
    rw [hleft, BitVec.msb_eq_toInt, decide_eq_true_iff]
    rw [BitVec.msb_eq_toInt, BitVec.msb_eq_toInt, decide_eq_decide] at hsign
    omega

end Sys2Proof.Machine

namespace Sys2Proof.Safety

open Sys2Proof.Machine

/-! The encodings of the two forms (`30_encoding.md` R65). -/

theorem encodeAReg_eq_fieldAt (fixed : Word) (rd rs : Reg) :
    encodeAReg fixed rd rs = fixed ||| fieldAt 5 rd ||| fieldAt 0 rs := by
  rw [fieldAt_val_eq_placeNibble, fieldAt_val_eq_placeNibble, encodeAReg]

theorem encodeAImm_eq_fieldAt (fixed : Word) (rd : Reg) (imm4 : BitVec 4) :
    encodeAImm fixed rd imm4 = fixed ||| fieldAt 5 rd ||| fieldAt 0 imm4.toNat := by
  rw [fieldAt_val_eq_placeNibble, fieldAt_toNat_eq_place, encodeAImm]

/-! The effect of a result write. -/

theorem flagsWritten_writeResult (rd : Reg) (r : AluResult) (s : State) :
    FlagsWritten (r.value.getLsbD 15) (decide (r.value = 0)) r.overflow r.carry s (s.writeResult rd r) :=
  ⟨writeResult_flagN s rd r, writeResult_flagZ s rd r, writeResult_flagV s rd r, writeResult_flagC s rd r,
    fun _ hj hj' => pswWithFlags_upper _ _ _ _ _ hj hj'⟩

/-- Writing a result changes nothing but the destination, pc and the four flags (`41_alu.md` R101, R102). -/
theorem resultEffect_writeResult (rd : Reg) (r : AluResult) (s : State) :
    ResultEffect rd r.value r.carry r.overflow s (s.writeResult rd r) :=
  ⟨destWritten_writeDest rd r.value (s.setPsw _), flagsWritten_writeResult rd r s,
    ⟨⟨rfl, rfl, rfl, rfl⟩, ⟨rfl, rfl, rfl⟩, rfl, rfl⟩, fun _ => rfl⟩

/-- An instruction whose effect is a result completes with that result, its flags and its frame. -/
theorem exec_resultEffect {i : Instr} {s : State} {rd : Reg} {r : Word} {c v : Bool}
    (heffect : effectOf i s = .result rd { value := r, carry := c, overflow := v }) :
    ∃ t, exec i s = .next t ∧ ResultEffect rd r c v s t :=
  ⟨_, by rw [exec_eq, heffect, Effect.apply], resultEffect_writeResult rd _ s⟩

/-- A logic instruction completes with a result made bit by bit, C and V clear (`41_alu.md` R105 to R107). -/
theorem exec_logicEffect {i : Instr} {s : State} {rd : Reg} {r b : Word} {f : Bool → Bool → Bool}
    (heffect : effectOf i s = .result rd (logicResult r))
    (hbits : ∀ j, r.getLsbD j = f ((s.reg rd).getLsbD j) (b.getLsbD j)) :
    ∃ t, exec i s = .next t ∧
      ∃ r : Word, (∀ j, j < 16 → r.getLsbD j = f ((s.reg rd).getLsbD j) (b.getLsbD j)) ∧
        ResultEffect rd r false false s t := by
  obtain ⟨t, hexec, hresult⟩ := exec_resultEffect heffect
  exact ⟨t, hexec, r, fun j _ => hbits j, hresult⟩

/-! Sum and difference as the rules write them (`41_alu.md` R103, R104). -/

/-- A word is its own number modulo 65536. -/
theorem trunc16_toNat (w : Word) : trunc16 w.toNat = w := by
  rw [trunc16, BitVec.ofInt_natCast, BitVec.ofNat_toNat, BitVec.setWidth_eq]

theorem trunc16_toNat_add_toNat (a b : Word) : trunc16 (a.toNat + b.toNat) = a + b := by
  rw [trunc16_toNat_add, ← trunc16, trunc16_toNat]

theorem trunc16_toNat_sub_toNat (a b : Word) : trunc16 ((a.toNat : Int) - b.toNat) = a - b := by
  rw [Int.sub_eq_add_neg, trunc16_toNat_add, BitVec.ofInt_neg, ← trunc16, trunc16_toNat, BitVec.sub_eq_add_neg]

theorem addResult_eq (a b : Word) : addResult a b =
    { value := trunc16 (a.toNat + b.toNat)
      carry := decide (65536 ≤ a.toNat + b.toNat)
      overflow := decide (a.getLsbD 15 = b.getLsbD 15 ∧
        (trunc16 (a.toNat + b.toNat)).getLsbD 15 ≠ a.getLsbD 15) } := by
  rw [trunc16_toNat_add_toNat, Bool.decide_and, addResult, AluResult.mk.injEq]
  refine ⟨rfl, rfl, ?_⟩
  simp [BitVec.msb_eq_getLsbD_last, bne, Bool.beq_eq_decide_eq]

theorem subResult_eq (a b : Word) : subResult a b =
    { value := trunc16 ((a.toNat : Int) - b.toNat)
      carry := decide (a.toNat < b.toNat)
      overflow := decide (a.getLsbD 15 ≠ b.getLsbD 15 ∧
        (trunc16 ((a.toNat : Int) - b.toNat)).getLsbD 15 ≠ a.getLsbD 15) } := by
  rw [trunc16_toNat_sub_toNat, Bool.decide_and, subResult, AluResult.mk.injEq]
  refine ⟨rfl, rfl, ?_⟩
  simp [BitVec.msb_eq_getLsbD_last, bne, Bool.beq_eq_decide_eq]

end Sys2Proof.Safety

/-! The settled statements about the ALU (`41_alu.md`). -/

namespace Sys2Proof.Proofs

open Sys2Proof.Machine Sys2Proof.Safety

/-- Settles O42: V is the overflow of the sum as `addResult` has it. -/
theorem addOverflowIsSignedOverflow : Obligations.AddOverflowIsSignedOverflow := by
  refine fun rd rs s => ⟨_, exec_eq _ s, ?_⟩
  rw [effectOf, Effect.apply, writeResult_flagV]
  exact addResult_overflow_iff ..

/-- Settles O43: each flag is the comparison that `subResult` makes of the operands. -/
theorem subComparesItsOperands : Obligations.SubComparesItsOperands := by
  refine fun rd rs s => ⟨_, exec_eq _ s, ?_⟩
  rw [effectOf, Effect.apply, writeResult_flagZ, writeResult_flagC, writeResult_flagN, writeResult_flagV,
    beq_iff_eq]
  exact ⟨subResult_value_eq_zero_iff .., decide_eq_true_iff, subResult_sign_ne_overflow_iff ..⟩

/-- Settles O27: both forms are one result write, of register or of zero-extended immediate. -/
theorem addEffect : Obligations.AddEffect := by
  refine fun rd s => ⟨fun rs => ⟨encodeAReg_eq_fieldAt .., exec_resultEffect ?_⟩,
    fun imm4 => ⟨encodeAImm_eq_fieldAt .., exec_resultEffect ?_⟩⟩
  · rw [effectOf, addResult_eq]
  · rw [effectOf, addResult_eq, trunc16_toNat_eq_zext16]

/-- Settles O28: both forms are one result write, of register or of zero-extended immediate. -/
theorem subEffect : Obligations.SubEffect := by
  refine fun rd s => ⟨fun rs => ⟨encodeAReg_eq_fieldAt .., exec_resultEffect ?_⟩,
    fun imm4 => ⟨encodeAImm_eq_fieldAt .., exec_resultEffect ?_⟩⟩
  · rw [effectOf, subResult_eq]
  · rw [effectOf, subResult_eq, trunc16_toNat_eq_zext16]

/-- Settles O29: each operation of words is the operation of their bits, in both forms. -/
theorem logicEffect : Obligations.LogicEffect := by
  intro rd s
  refine ⟨fun rs => ?_, fun imm4 => ?_⟩
  · exact ⟨encodeAReg_eq_fieldAt .., encodeAReg_eq_fieldAt .., encodeAReg_eq_fieldAt ..,
      exec_logicEffect rfl fun _ => BitVec.getLsbD_and, exec_logicEffect rfl fun _ => BitVec.getLsbD_or,
      exec_logicEffect rfl fun _ => BitVec.getLsbD_xor⟩
  · rw [trunc16_toNat_eq_zext16]
    exact ⟨encodeAImm_eq_fieldAt .., encodeAImm_eq_fieldAt .., encodeAImm_eq_fieldAt ..,
      exec_logicEffect rfl fun _ => BitVec.getLsbD_and, exec_logicEffect rfl fun _ => BitVec.getLsbD_or,
      exec_logicEffect rfl fun _ => BitVec.getLsbD_xor⟩

/-- Settles O44: the second operand is the same in both states, and the sum minus it is the old value. -/
theorem addThenSubRestores : Obligations.AddThenSubRestores := by
  intro rd s _
  refine ⟨fun imm4 => ⟨_, _, exec_eq _ s, exec_eq _ _, ?_⟩, fun rs hrs hpc => ⟨_, _, exec_eq _ s, exec_eq _ _, ?_⟩⟩
  · simp only [effectOf, Effect.apply, writeResult_reg_dest]
    exact BitVec.add_sub_cancel ..
  · have hkept (r : AluResult) : (s.writeResult rd r).reg rs = s.reg rs := by
      rw [writeResult_reg, if_neg hrs, if_neg hpc]
    simp only [effectOf, Effect.apply, writeResult_reg_dest, hkept]
    exact BitVec.add_sub_cancel ..

end Sys2Proof.Proofs

/-! SUPPORT. The shifts' results in the integers of the statements (`42_shift.md` R121 to R126). -/

namespace Sys2Proof.Safety

open Sys2Proof.Machine

/-- The encoding of the shift family (`30_encoding.md` R65). -/
theorem encodeSH_eq_fieldAt (fixed : Word) (rd : Reg) (cnt : Fin 16) :
    encodeSH fixed rd cnt = fixed ||| fieldAt 4 rd ||| fieldAt 0 cnt := by
  rw [fieldAt_val_eq_placeNibble, fieldAt_val_eq_placeNibble, encodeSH]

variable (a : Word) (n : Nat)

/-! The values: product, unsigned quotient, signed quotient rounded down, and the rotated bits. -/

theorem trunc16_toNat_mul_two_pow : trunc16 (a.toNat * 2 ^ n) = a <<< n := by
  have hcast : (a.toNat * 2 ^ n : Int) = (a.toNat * 2 ^ n : Nat) := by norm_cast
  rw [hcast, trunc16, BitVec.ofInt_natCast, ← Nat.shiftLeft_eq]
  rfl

theorem trunc16_toNat_div_two_pow : trunc16 (a.toNat / 2 ^ n) = a >>> n := by
  have hcast : (a.toNat / 2 ^ n : Int) = (a.toNat / 2 ^ n : Nat) := by norm_cast
  rw [hcast, ← Nat.shiftRight_eq_div_pow, ← BitVec.toNat_ushiftRight, trunc16_toNat]

/-- A power of two is positive, so the floor division of R125 is the one an integer shift makes. -/
theorem trunc16_toInt_fdiv_two_pow : trunc16 (a.toInt.fdiv (2 ^ n)) = a.sshiftRight n := by
  have hpos : (0 : Int) ≤ 2 ^ n := by positivity
  rw [Int.fdiv_eq_ediv_of_nonneg _ hpos, trunc16, BitVec.sshiftRight, Int.shiftRight_eq_div_pow]
  norm_cast

theorem getLsbD_rotateRight_of_lt {j : Nat} (hj : j < 16) :
    (a.rotateRight n).getLsbD j = a.getLsbD ((j + n) % 16) := by
  rw [BitVec.getLsbD_rotateRight]
  by_cases hstays : j < 16 - n % 16
  · have hbit : n % 16 + j = (j + n) % 16 := by omega
    rw [decide_eq_true hstays, cond_true, hbit]
  · have hbit : j - (16 - n % 16) = (j + n) % 16 := by omega
    rw [decide_eq_false hstays, cond_false, decide_eq_true hj, Bool.true_and, hbit]

/-! C, and each result with its value and C as the statements write them. -/

theorem lastOutLeft_eq : lastOutLeft a n = (decide (n ≠ 0) && a.getLsbD (16 - n)) := by
  by_cases h : n = 0 <;> simp [lastOutLeft, h]

theorem lastOutRight_eq : lastOutRight a n = (decide (n ≠ 0) && a.getLsbD (n - 1)) := by
  by_cases h : n = 0 <;> simp [lastOutRight, h]

/-- The last bit that went round is the new bit 15 (`42_shift.md` R126). -/
theorem lastOutRight_eq_rotateRight {a : Word} {n : Nat} (hn : n ≠ 0) (hlt : n < 16) :
    lastOutRight a n = (a.rotateRight n).getLsbD 15 := by
  have hbit : (15 + n) % 16 = n - 1 := by omega
  rw [getLsbD_rotateRight_of_lt a n (by decide), hbit, lastOutRight, if_neg hn]

theorem slResult_eq : slResult a n =
    { value := trunc16 (a.toNat * 2 ^ n)
      carry := decide (n ≠ 0) && a.getLsbD (16 - n)
      overflow := false } := by
  rw [trunc16_toNat_mul_two_pow, ← lastOutLeft_eq, slResult]

theorem srResult_eq : srResult a n =
    { value := trunc16 (a.toNat / 2 ^ n)
      carry := decide (n ≠ 0) && a.getLsbD (n - 1)
      overflow := false } := by
  rw [trunc16_toNat_div_two_pow, ← lastOutRight_eq, srResult]

theorem sraResult_eq : sraResult a n =
    { value := trunc16 (a.toInt.fdiv (2 ^ n))
      carry := decide (n ≠ 0) && a.getLsbD (n - 1)
      overflow := false } := by
  rw [trunc16_toInt_fdiv_two_pow, ← lastOutRight_eq, sraResult]

end Sys2Proof.Safety

/-! The settled statements about the shifts (`42_shift.md`). -/

namespace Sys2Proof.Proofs

open Sys2Proof.Machine Sys2Proof.Safety

/-- Settles O32: one result write, of the sign-filled shift as a floor division. -/
theorem sraEffect : Obligations.SraEffect := by
  refine fun rd cnt => ⟨encodeSH_eq_fieldAt .., fun s => exec_resultEffect ?_⟩
  rw [effectOf, sraResult_eq]

/-- Settles O33: one result write of the rotated word, and C is both the old bit that went round last and the
new bit 15. -/
theorem rorEffect : Obligations.RorEffect := by
  refine fun rd cnt => ⟨encodeSH_eq_fieldAt .., fun s => ?_⟩
  refine ⟨_, (s.reg rd).rotateRight cnt, exec_eq _ s, fun j hj => getLsbD_rotateRight_of_lt _ _ hj, ?_, fun hcnt => ?_⟩
  · rw [← lastOutRight_eq]
    exact resultEffect_writeResult rd (rorResult (s.reg rd) cnt) s
  · rw [← lastOutRight_eq_rotateRight hcnt cnt.isLt]
    exact writeResult_flagC s rd (rorResult (s.reg rd) cnt)

/-- Settles O30: one result write, of the left shift as a product modulo 65536. -/
theorem slEffect : Obligations.SlEffect := by
  refine fun rd cnt => ⟨encodeSH_eq_fieldAt .., fun s => exec_resultEffect ?_⟩
  rw [effectOf, slResult_eq]

/-- Settles O31: one result write, of the zero-filled shift as an unsigned quotient. -/
theorem srEffect : Obligations.SrEffect := by
  refine fun rd cnt => ⟨encodeSH_eq_fieldAt .., fun s => exec_resultEffect ?_⟩
  rw [effectOf, srResult_eq]

end Sys2Proof.Proofs

/-! SUPPORT. The memory family as the statements write it: its encoding (`30_encoding.md` R65), and the load and the
store of the word at the effective address (`43_load_store.md` R130 to R132). -/

namespace Sys2Proof.Safety

open Sys2Proof.Machine

theorem encodeM_eq_fieldAt (fixed : Word) (rd rb : Reg) (off5 : BitVec 5) :
    encodeM fixed rd rb off5 = fixed ||| fieldAt 9 rd ||| fieldAt 5 rb ||| fieldAt 0 off5.toNat := by
  rw [fieldAt_val_eq_placeNibble, fieldAt_val_eq_placeNibble, fieldAt_toNat_eq_place, encodeM]

/-- Going on to the next address changes nothing but pc (`10_state.md` R15). -/
theorem jumpEffect_advance (s : State) : JumpEffect (trunc16 ((s.reg Reg.pc).toNat + 1)) s s.advance := by
  rw [← seqPc_eq_trunc16]
  exact jumpEffect_setPc s.seqPc s

end Sys2Proof.Safety

namespace Sys2Proof.Machine

open Sys2Proof.Safety

/-- LD writes the word at its effective address to its destination (`43_load_store.md` R131). -/
theorem exec_ld (rd rb : Reg) (off5 : BitVec 5) (s : State) : exec (.ld rd rb off5) s =
    .next (s.writeDest rd (s.memRead (trunc16 ((s.reg rb).toNat + off5.toInt)))) := by
  rw [← effAddr_eq_trunc16]
  rfl

/-- ST writes its register to memory at its effective address and goes on (`43_load_store.md` R132). -/
theorem exec_st (rd rb : Reg) (off5 : BitVec 5) (s : State) : exec (.st rd rb off5) s =
    .next (s.memWrite (trunc16 ((s.reg rb).toNat + off5.toInt)) (s.reg rd)).advance := by
  rw [← effAddr_eq_trunc16]
  rfl

end Sys2Proof.Machine

/-! The settled statements about load and store (`43_load_store.md`). -/

namespace Sys2Proof.Proofs

open Sys2Proof.Machine Sys2Proof.Safety

/-- Settles O25: the encoder places the same three fields, and LD is a destination write of the word it reads. -/
theorem ldEffect : Obligations.LdEffect := fun rd rb off5 =>
  ⟨encodeM_eq_fieldAt .., fun s => ⟨_, exec_ld rd rb off5 s, registerEffect_writeDest rd _ s⟩⟩

/-- Settles O26: ST is a write of one word, which keeps all but memory, and then an advance, which keeps all but pc. -/
theorem stEffect : Obligations.StEffect := by
  refine fun rd rb off5 => ⟨encodeM_eq_fieldAt .., fun s => ⟨_, exec_st rd rb off5 s, ?_⟩⟩
  obtain ⟨hgoes, hpsw, hsystem, -⟩ :=
    jumpEffect_advance (s.memWrite (trunc16 ((s.reg rb).toNat + off5.toInt)) (s.reg rd))
  exact ⟨storedOnly_memWrite s _ _, hgoes, hpsw, hsystem⟩

end Sys2Proof.Proofs

/-! SUPPORT. The branch family as the statement writes it: its encoding (`30_encoding.md` R65), its two goals and its
effect (`44_branch.md` R140, R141). -/

namespace Sys2Proof.Safety

open Sys2Proof.Machine

theorem encodeB_eq_fieldAt (fixed : Word) (off9 : BitVec 9) :
    encodeB fixed off9 = fixed ||| fieldAt 0 off9.toNat := by
  rw [fieldAt_toNat_eq_place, encodeB]

theorem branchGoal_eq_trunc16 (s : State) (taken : Bool) (off9 : BitVec 9) :
    s.branchGoal taken off9 =
      if taken then trunc16 ((s.reg Reg.pc).toNat + 1 + off9.toInt) else trunc16 ((s.reg Reg.pc).toNat + 1) := by
  rw [State.branchGoal, branchTarget_eq_trunc16, seqPc_eq_trunc16]

/-- An instruction whose effect is to go where a branch goes completes there and changes nothing but pc. -/
theorem exec_branchEffect {i : Instr} {s : State} {taken : Bool} {off9 : BitVec 9}
    (heffect : effectOf i s = .goto (s.branchGoal taken off9)) :
    ∃ t, exec i s = .next t ∧
      JumpEffect (if taken then trunc16 ((s.reg Reg.pc).toNat + 1 + off9.toInt)
        else trunc16 ((s.reg Reg.pc).toNat + 1)) s t := by
  rw [← branchGoal_eq_trunc16]
  exact ⟨_, by rw [exec_eq, heffect, Effect.apply], jumpEffect_setPc _ s⟩

end Sys2Proof.Safety

/-! The settled statement about the branches (`44_branch.md`). -/

namespace Sys2Proof.Proofs

open Sys2Proof.Machine Sys2Proof.Safety

/-- Settles O34: each branch has its opcode over the same field, and goes where a branch on its own flag goes. -/
theorem branchEffect : Obligations.BranchEffect := fun off9 s =>
  have word (fixed : Word) := encodeB_eq_fieldAt fixed off9
  have jump (i : Instr) (taken : Bool) := exec_branchEffect (i := i) (s := s) (taken := taken) (off9 := off9)
  ⟨⟨word 0xE000, jump (.jz off9) s.flagZ rfl⟩, ⟨word 0xE200, jump (.jnz off9) (!s.flagZ) rfl⟩,
    ⟨word 0xE400, jump (.jc off9) s.flagC rfl⟩, ⟨word 0xE600, jump (.jnc off9) (!s.flagC) rfl⟩,
    ⟨word 0xE800, jump (.jn off9) s.flagN rfl⟩, ⟨word 0xEA00, jump (.jnn off9) (!s.flagN) rfl⟩,
    ⟨word 0xEC00, jump (.jo off9) s.flagV rfl⟩, ⟨word 0xEE00, jump (.jno off9) (!s.flagV) rfl⟩⟩

end Sys2Proof.Proofs

/-! SUPPORT. The flag family as the statements write it: its encoding (`30_encoding.md` R65), its masks by the one bit
they name (`45_flag.md` R160, R161), and the effect of a write through a mask (R166). -/

namespace Sys2Proof.Machine

/-- Two masks that name the same bit of PSW are one, in whichever groups they name it. -/
theorem flagMask_eq_flagMask {base base' : Nat} {idx idx' : Fin 16} (h : idx.val + base = idx'.val + base') :
    flagMask base idx = flagMask base' idx' := by
  apply BitVec.eq_of_getLsbD_eq
  intro j hj
  rw [flagMask_getLsbD base idx hj, flagMask_getLsbD base' idx' hj, h]

end Sys2Proof.Machine

namespace Sys2Proof.Safety

open Sys2Proof.Machine

theorem encodeF_eq_fieldAt (fixed : Word) (idx : Fin 16) : encodeF fixed idx = fixed ||| fieldAt 0 idx := by
  rw [fieldAt_val_eq_placeNibble, encodeF]

/-- A new PSW that differs from the old in one bit at most, and an advance, which keeps all but pc. -/
theorem flagBitEffect_setPsw_advance {s : State} {w : Word} {bit : Nat} {value : Bool}
    (hw : ∀ j, j < 16 → w.getLsbD j = if j = bit then value else s.psw.getLsbD j) :
    FlagBitEffect bit value s (s.setPsw w).advance := by
  obtain ⟨hgoes, -, hsystem, hmemory⟩ := jumpEffect_advance (s.setPsw w)
  exact ⟨hw, hgoes, hsystem, hmemory⟩

theorem flagBitEffect_setFlagBits (base : Nat) (idx : Fin 16) (s : State) :
    FlagBitEffect (idx.val + base) true s (s.setFlagBits (flagMask base idx)) := by
  refine flagBitEffect_setPsw_advance fun j hj => ?_
  rw [BitVec.getLsbD_or, flagMask_getLsbD base idx hj]
  split <;> simp [*]

theorem flagBitEffect_clearFlagBits (base : Nat) (idx : Fin 16) (s : State) :
    FlagBitEffect (idx.val + base) false s (s.clearFlagBits (flagMask base idx)) := by
  refine flagBitEffect_setPsw_advance fun j hj => ?_
  rw [BitVec.getLsbD_and, BitVec.getLsbD_not, flagMask_getLsbD base idx hj]
  split <;> simp [*]

/-- An instruction whose effect is to set the bit a mask names completes and writes that bit alone. -/
theorem exec_setBitEffect {i : Instr} {s : State} {base : Nat} {idx : Fin 16}
    (heffect : effectOf i s = .setBits (flagMask base idx)) :
    ∃ t, exec i s = .next t ∧ FlagBitEffect (idx.val + base) true s t :=
  ⟨_, by rw [exec_eq, heffect, Effect.apply], flagBitEffect_setFlagBits base idx s⟩

/-- An instruction whose effect is to clear the bit a mask names completes and writes that bit alone. -/
theorem exec_clearBitEffect {i : Instr} {s : State} {base : Nat} {idx : Fin 16}
    (heffect : effectOf i s = .clearBits (flagMask base idx)) :
    ∃ t, exec i s = .next t ∧ FlagBitEffect (idx.val + base) false s t :=
  ⟨_, by rw [exec_eq, heffect, Effect.apply], flagBitEffect_clearFlagBits base idx s⟩

/-- A write of a bit that PSW does not have changes nothing of it (`45_flag.md` R164). -/
theorem FlagBitEffect.pswKept_of_le {bit : Nat} {value : Bool} {s t : State} (h : FlagBitEffect bit value s t)
    (hbit : 16 ≤ bit) : PswKept s t := by
  obtain ⟨hpsw, -⟩ := h
  apply BitVec.eq_of_getLsbD_eq
  intro j hj
  rw [hpsw j hj, if_neg (by omega)]

end Sys2Proof.Safety

/-! The settled statements about the flag family (`45_flag.md`). -/

namespace Sys2Proof.Proofs

open Sys2Proof.Machine Sys2Proof.Safety

/-- Settles O35: the mask of group L names bit `idx` itself. -/
theorem setClrEffect : Obligations.SetClrEffect := fun idx _ =>
  ⟨⟨encodeF_eq_fieldAt 0xFE00 idx, exec_setBitEffect (base := 0) rfl⟩,
    ⟨encodeF_eq_fieldAt 0xFE10 idx, exec_clearBitEffect (base := 0) rfl⟩⟩

/-- Settles O36: the mask of group H names bit `idx + FLAG_BASE_H`. -/
theorem set2Clr2Effect : Obligations.Set2Clr2Effect := fun idx _ =>
  ⟨⟨encodeF_eq_fieldAt 0xFE20 idx, exec_setBitEffect rfl⟩,
    ⟨encodeF_eq_fieldAt 0xFE30 idx, exec_clearBitEffect rfl⟩⟩

/-- Settles O48: up to 11 the two groups' masks name one bit, and from 12 on the bit lies outside PSW. -/
theorem highGroupIsShiftedLowGroup : Obligations.HighGroupIsShiftedLowGroup := by
  intro s k hbase
  have hval : s.params.flagBaseH.val = 4 := congrArg Fin.val hbase
  refine ⟨fun hk => ?_, fun hk => ?_⟩
  · have hsum : (k + 4 : Fin 16).val = k.val + 4 := Fin.val_add_eq_of_add_lt (by omega)
    have hmask : flagMask s.params.flagBaseH.val k = flagMask 0 (k + 4) := flagMask_eq_flagMask (by omega)
    rw [exec_eq, exec_eq, exec_eq, exec_eq]
    simp only [effectOf, hmask, and_self]
  · obtain ⟨⟨-, t, hset, hsetBit⟩, -, u, hclear, hclearBit⟩ := set2Clr2Effect k s
    exact ⟨⟨t, hset, hsetBit.pswKept_of_le (by omega)⟩, u, hclear, hclearBit.pswKept_of_le (by omega)⟩

end Sys2Proof.Proofs

/-! SUPPORT. The system family as the statements write it (`46_system.md`): what a step answers (R182), the halted core
(R185), and the frames of the entry into the privileged context and of the return (R183, R184). -/

namespace Sys2Proof.Machine

theorem step_of_halted {s : State} (h : s.running = false) : step s = .next s := by
  rw [step_eq, stepEffect_of_halted h, Effect.apply]

/-- A step answers whether the core runs after the step's effect. -/
theorem stepContinue_eq (s : State) : stepContinue s = (s.stepEffect.apply s).running := by
  rw [stepContinue, step_eq]

theorem stepContinue_of_halted {s : State} (h : s.running = false) : stepContinue s = false := by
  rw [stepContinue_eq, stepEffect_of_halted h, Effect.apply, h]

/-- The step at an instruction's word answers whether the core runs after the instruction's effect. -/
theorem stepContinue_of_fetch {s : State} {i : Instr} (hrunning : s.running = true) (hwf : i.wf = true)
    (hword : s.fetch = encode i) : stepContinue s = ((effectOf i s).apply s).running := by
  rw [stepContinue_eq, stepEffect_of_running hrunning, hword, Codec.decode_encode hwf]

end Sys2Proof.Machine

namespace Sys2Proof.Safety

open Sys2Proof.Machine

theorem haltEffect_halt (s : State) : HaltEffect s s.halt :=
  ⟨rfl, rfl, halt_reg s, rfl, ⟨rfl, rfl, rfl, rfl⟩, ⟨rfl, rfl, rfl⟩, halt_byteAt s⟩

/-- An instruction whose effect is to stop completes in a core that every further step leaves as it is. -/
theorem exec_haltEffect {i : Instr} {s : State} (heffect : effectOf i s = .halt) :
    ∃ t, exec i s = .next t ∧ HaltEffect s t ∧ step t = .next t ∧ stepContinue t = false :=
  ⟨s.halt, by rw [exec_eq, heffect, Effect.apply], haltEffect_halt s, step_of_halted (halt_running s),
    stepContinue_of_halted (halt_running s)⟩

theorem goesTo_enterContext (vector : Word) (s : State) : GoesTo vector s (s.enterContext vector) :=
  ⟨(enterContext_reg s vector _).trans (if_pos rfl), fun q hq => (enterContext_reg s vector q).trans (if_neg hq)⟩

theorem goesTo_leaveContext (s : State) : GoesTo s.pcShadow s s.leaveContext :=
  ⟨(leaveContext_reg s _).trans (if_pos rfl), fun q hq => (leaveContext_reg s q).trans (if_neg hq)⟩

end Sys2Proof.Safety

/-! The settled statements about the system family (`46_system.md`). -/

namespace Sys2Proof.Proofs

open Sys2Proof.Machine Sys2Proof.Safety

/-- Settles O37: both instructions only advance, and an advance keeps the core running. -/
theorem nopAndUndefEffect : Obligations.NopAndUndefEffect := by
  intro s
  refine ⟨rfl, ⟨_, exec_nop s, jumpEffect_advance s⟩, fun w => ⟨_, exec_eq (.undef w) s, jumpEffect_advance s⟩, ?_⟩
  rintro hrunning (hnop | hundef)
  · exact (stepContinue_of_fetch (i := .nop) hrunning rfl hnop).trans hrunning
  · exact (stepContinue_of_fetch (i := .undef s.fetch) hrunning hundef rfl).trans hrunning

/-- Settles O38: both words have the one effect, the halt, and a core that was halted before answers false too. -/
theorem haltStopsAndKeepsPc : Obligations.HaltStopsAndKeepsPc := by
  refine fun s => ⟨rfl, rfl, exec_haltEffect rfl, exec_haltEffect rfl, fun hword => ?_⟩
  cases hrunning : s.running with
  | false => exact stepContinue_of_halted hrunning
  | true =>
    obtain hhalt | hones := hword
    · exact stepContinue_of_fetch (i := .halt) hrunning rfl hhalt
    · exact stepContinue_of_fetch (i := .haltOnes) hrunning rfl hones

/-- Settles O39: SWI enters the privileged context at the vector, which sets S and no other bit of PSW. -/
theorem swiEffect : Obligations.SwiEffect := by
  refine ⟨rfl, fun s => ⟨s.enterContext s.params.swiVector, exec_eq .swi s, rfl, seqPc_eq_trunc16 s, rfl, ?_⟩⟩
  exact ⟨fun _ hj => pswWithS_getLsbD s.psw hj, goesTo_enterContext _ s, ⟨rfl, rfl, rfl, rfl⟩, ⟨rfl, rfl⟩,
    enterContext_byteAt s _⟩

/-- Settles O40: RETI leaves the privileged context, whatever S says, and keeps the shadow registers. -/
theorem retiEffect : Obligations.RetiEffect :=
  ⟨rfl, fun s => ⟨s.leaveContext, exec_eq .reti s, leaveContext_psw s, leaveContext_cs s, goesTo_leaveContext s,
    leaveContext_ds s, leaveContext_ss s, leaveContext_es s, ⟨rfl, rfl, rfl⟩, ⟨rfl, rfl⟩, leaveContext_byteAt s⟩⟩

end Sys2Proof.Proofs

/-! SUPPORT. The large-immediate load as a destination write (`47_large_immediate.md`). -/

namespace Sys2Proof.Machine

open Sys2Proof.Safety

/-- LDI writes the zero-extended immediate to register 0 (`47_large_immediate.md` R195). -/
theorem exec_ldi (imm13 : BitVec 13) (s : State) :
    exec (.ldi imm13) s = .next (s.writeDest 0 (trunc16 imm13.toNat)) := by
  rw [trunc16_toNat_eq_zext16, exec_eq, effectOf, Effect.apply]

end Sys2Proof.Machine

namespace Sys2Proof.Safety

open Sys2Proof.Machine

/-- LDI's row has no fixed bit set and its field at bit 0, so its word is the immediate (`30_encoding.md` R65). -/
theorem encodeI13_eq_trunc16 (imm13 : BitVec 13) : encodeI13 imm13 = trunc16 imm13.toNat := by
  rw [encodeI13, ← fieldAt_toNat_eq_place, fieldAt, BitVec.shiftLeft_zero]

end Sys2Proof.Safety

/-! The settled statement about the large-immediate load (`47_large_immediate.md`). -/

namespace Sys2Proof.Proofs

open Sys2Proof.Machine Sys2Proof.Safety

/-- Settles O24: the word is the immediate, and LDI is a destination write of it to register 0. -/
theorem ldiEffect : Obligations.LdiEffect := fun imm13 =>
  ⟨encodeI13_eq_trunc16 imm13, fun s => ⟨_, exec_ldi imm13 s, registerEffect_writeDest 0 _ s⟩⟩

end Sys2Proof.Proofs

/-! SUPPORT. The step as the statements on exceptions write it (`60_exceptions.md`): the word at pc and its instruction,
which steps stop the core (R182, R203), and the return from a context just entered (R208, R209). -/

namespace Sys2Proof.Codec

/-- A word decodes to an instruction exactly when the instruction encodes to it (`30_encoding.md` R62). -/
theorem decode_eq_iff {w : Word} {i : Instr} (hwf : i.wf = true) : decode w = i ↔ w = encode i := by
  constructor
  · rintro rfl
    exact (decode_wf_and_encode_decode w).2.symm
  · rintro rfl
    exact decode_encode hwf

end Sys2Proof.Codec

namespace Sys2Proof.Machine

/-- The step at an instruction's word executes the instruction (`60_exceptions.md` R200). -/
theorem step_of_fetch {s : State} {i : Instr} (hrunning : s.running = true) (hwf : i.wf = true)
    (hword : s.fetch = encode i) : step s = exec i s := by
  rw [step_of_running hrunning, (Codec.decode_eq_iff hwf).2 hword]

/-- Of the effects, the halt alone stops a running core (`46_system.md` R182). -/
theorem Effect.apply_halts_iff {s : State} (hrunning : s.running = true) (e : Effect) :
    (e.apply s).running = false ↔ e = .halt := by
  have hne : s.running ≠ false := by rw [hrunning]; decide
  cases e with
  | halt => exact ⟨fun _ => rfl, fun _ => halt_running s⟩
  | _ => exact ⟨fun h => absurd h hne, nofun⟩

theorem effectOf_eq_halt_iff {i : Instr} {s : State} : effectOf i s = .halt ↔ i = .halt ∨ i = .haltOnes := by
  cases i with
  | halt => exact ⟨fun _ => .inl rfl, fun _ => rfl⟩
  | haltOnes => exact ⟨fun _ => .inr rfl, fun _ => rfl⟩
  | _ => exact ⟨nofun, nofun⟩

/-- The effect of a running core's step is the halt at the two words of HALT (`46_system.md` R182, R185). -/
theorem stepEffect_eq_halt_iff {s : State} (hrunning : s.running = true) :
    s.stepEffect = .halt ↔ s.fetch = 0xFFF1 ∨ s.fetch = 0xFFFF := by
  rw [stepEffect_of_running hrunning, effectOf_eq_halt_iff, Codec.decode_eq_iff (i := .halt) rfl,
    Codec.decode_eq_iff (i := .haltOnes) rfl]
  rfl

/-- Any number of steps from a state that its step leads back to. -/
theorem run_of_step_eq_self {M : Host.Core} {s : M.State} (h : M.step s = .next s) (n : Nat) : M.run n s = .next s := by
  induction n with
  | zero => rfl
  | succ n ih => simp only [Host.Core.run, h, ih]

end Sys2Proof.Machine

namespace Sys2Proof.Safety

open Sys2Proof.Machine

theorem GoesTo.trans {a b : Word} {s t u : State} (hst : GoesTo a s t) (htu : GoesTo b t u) : GoesTo b s u := by
  obtain ⟨-, hst⟩ := hst
  obtain ⟨hpc, htu⟩ := htu
  exact ⟨hpc, fun q hq => (htu q hq).trans (hst q hq)⟩

/-- The return from a context just entered goes on after the entry (`60_exceptions.md` R208, R209). -/
theorem goesOn_leaveContext_enterContext (vector : Word) (s : State) :
    GoesOn s (s.enterContext vector).leaveContext := by
  rw [GoesOn, ← seqPc_eq_trunc16]
  exact (goesTo_enterContext vector s).trans (goesTo_leaveContext (s.enterContext vector))

end Sys2Proof.Safety

/-! SUPPORT. Reset and the host's writes (`70_reset_and_hazards.md` R230 to R239): the registers and the memory after
reset, when a write is allowed, and what wakes a halted core. -/

namespace Sys2Proof.Machine

/-- The general registers after reset (`10_state.md` R30). -/
theorem resetWith_reg (p : Config.Params) (m : Memory) (r : Reg) :
    (State.resetWith p m).reg r = if r = Reg.sp then 0xFFFF else 0x0000 := by
  have hregs : ∀ r : Reg, State.resetRegisters[r] = if r = Reg.sp then 0xFFFF else 0x0000 := by decide
  exact hregs r

/-- After reset over a memory that lists neither byte of a word, the word is that of `MEM_INIT` (R232). -/
theorem resetWith_memRead_unlisted (p : Config.Params) {m : Memory} {a : Word}
    (hfirst : m.listed (firstByteAddr a) = none) (hsecond : m.listed (secondByteAddr a) = none) :
    (State.resetWith p m).memRead a = Config.memInit a := readWord_unlisted p.hostByteOrder hfirst hsecond

variable {c d : Session}

/-- A host may write after reset before the first step, or while the core is halted (R236). -/
theorem mayMutate_iff : c.mayMutate = true ↔ c.stepped = false ∨ c.state.running = false := by
  rw [Session.mayMutate, Bool.or_eq_true, Bool.not_eq_true', Bool.not_eq_true']

theorem mutate_of_mayMutate (h : c.mayMutate = true) (t : State) : c.mutate t = .next { c with state := t } :=
  if_pos h

/-- A host's write in the middle of a run is refused (R236, R239; log 9). -/
theorem mutate_midRun (hstepped : c.stepped = true) (hrunning : c.state.running = true) (t : State) :
    c.mutate t = .refused .hostMutationMidRun := by
  rw [Session.mutate, Session.mayMutate, hstepped, hrunning]
  rfl

/-- Of the host's events, reset alone makes a halted core run (`60_exceptions.md` R201). -/
theorem apply_wakes_iff {e : HostEvent} (hhalted : c.state.running = false) (h : c.apply e = .next d) :
    d.state.running = true ↔ e = .reset := by
  cases e with
  | reset => cases h; exact ⟨fun _ => rfl, fun _ => resetEvent_running c.state⟩
  | step =>
    rw [Session.apply, step_of_halted hhalted] at h
    cases h
    simp [hhalted]
  | load a v => simp [mutate_state h, State.hostLoad, hhalted]
  | setPc a => simp [mutate_state h, State.hostSetPc, hhalted]

end Sys2Proof.Machine

/-! The settled statements about the step and the exceptions (`60_exceptions.md`). -/

namespace Sys2Proof.Proofs

open Sys2Proof.Machine Sys2Proof.Safety

/-- Settles O19: a step of a halted core keeps it, and so do n of them, by induction on n. -/
theorem haltedCoreStaysAsItIs : Obligations.HaltedCoreStaysAsItIs := fun n _ hhalted =>
  run_of_step_eq_self (M := core) (step_of_halted hhalted) n

/-- Settles O21: the one effect that stops a running core is the halt, which the two words alone ask for. -/
theorem runEndsExactlyAtHalt : Obligations.RunEndsExactlyAtHalt := by
  intro s hrunning
  have hends : (s.stepEffect.apply s).running = false ↔ s.fetch = 0xFFF1 ∨ s.fetch = 0xFFFF :=
    (Effect.apply_halts_iff hrunning _).trans (stepEffect_eq_halt_iff hrunning)
  refine ⟨_, step_eq s, hends, ?_⟩
  rw [stepContinue_eq]
  exact hends

/-- Settles O49: SWI saves PSW, CS and the next address and changes S and pc alone; RETI brings the three back. -/
theorem swiThenRetiRestores : Obligations.SwiThenRetiRestores := by
  intro s hrunning hswi hreti
  have hfirst : step s = .next (s.enterContext s.params.swiVector) :=
    step_of_fetch (i := .swi) hrunning rfl hswi
  have hfetch : (s.enterContext s.params.swiVector).fetch = encode .reti := by
    rw [State.fetch, State.pc, enterContext_reg, if_pos rfl, enterContext_memRead]
    exact hreti
  have hsecond := step_of_fetch (i := .reti) (s := s.enterContext s.params.swiVector) hrunning rfl hfetch
  exact ⟨_, _, hfirst, hsecond, rfl, ⟨rfl, rfl, rfl, rfl⟩, ⟨rfl, rfl⟩,
    goesOn_leaveContext_enterContext s.params.swiVector s, fun _ => rfl⟩

/-- Settles O17: a step of a running core is the execution of what it fetches. -/
theorem stepRunsDecodedInstruction : Obligations.StepRunsDecodedInstruction := by
  rintro s hrunning _ rfl
  exact step_of_running hrunning

/-- Settles O18: a halted core's step has no effect, and the host's writes leave the running flag alone. -/
theorem haltedStepChangesNothing : Obligations.HaltedStepChangesNothing :=
  ⟨fun _ hhalted => ⟨step_of_halted hhalted, stepContinue_of_halted hhalted⟩,
    fun _ _ _ hhalted happly => apply_wakes_iff hhalted happly⟩

/-- Settles O20: a step applies its effect, and no effect writes the parameters. -/
theorem stepIsTotalAndKeepsParameters : Obligations.StepIsTotalAndKeepsParameters := fun s =>
  ⟨_, step_eq s, Effect.apply_params _ s⟩

/-- Settles O50: the inner entry saves a PSW that has S, and a return keeps the shadow registers, so both returns go to
the inner PC'. -/
theorem nestedSwiKeepsInnerReturnOnly : Obligations.NestedSwiKeepsInnerReturnOnly := by
  intro t hS
  have hreturn : ∀ s : State, s.leaveContext.reg Reg.pc = s.pcShadow := fun s =>
    (leaveContext_reg s Reg.pc).trans (if_pos rfl)
  exact ⟨_, _, _, exec_eq .swi t, exec_eq .reti _, exec_eq .reti _, seqPc_eq_trunc16 t, rfl, rfl, hS, hS,
    hreturn _, hreturn _⟩

end Sys2Proof.Proofs

/-! The settled statements about reset and the host (`70_reset_and_hazards.md`). -/

namespace Sys2Proof.Proofs

open Sys2Proof.Machine Sys2Proof.Safety

/-- Settles O1: reset writes every register and no memory, and a word nobody listed is that of `MEM_INIT`. -/
theorem resetEventValues : Obligations.ResetEventValues := by
  refine ⟨fun s => ⟨resetWith_reg s.params s.mem, rfl, rfl, rfl, rfl, rfl, rfl, rfl, rfl, rfl, rfl,
    resetEvent_memRead s⟩, fun p image => ⟨rfl, rfl, fun a => resetWith_memRead_unlisted p⟩, fun a => ?_⟩
  exact resetWith_memRead_unlisted Config.defaults rfl rfl

/-- Settles O2: reset builds the state from memory and the parameters, and keeps these two. -/
theorem resetForgetsRegisters : Obligations.ResetForgetsRegisters := by
  refine ⟨fun s s' hmem hparams => ?_, fun s => ?_⟩
  · rw [State.resetEvent, State.resetEvent, hmem, hparams]
  · rw [State.resetEvent, resetEvent_params, resetEvent_mem, State.resetEvent]

/-- Settles O3: inside a run both writes are refused; outside, each is the one update of the core. -/
theorem hostWritesOnlyOutsideARun : Obligations.HostWritesOnlyOutsideARun := by
  refine fun c => ⟨fun hstepped hrunning a v => ?_, fun houtside a v => ?_⟩
  · exact ⟨mutate_midRun hstepped hrunning _, mutate_midRun hstepped hrunning _⟩
  · have hmay : c.mayMutate = true := mayMutate_iff.2 houtside
    have hwrite := memoryWriteSetsOneWord c.state a v
    have hjump := jumpEffect_setPc a c.state
    exact ⟨⟨_, mutate_of_mayMutate hmay _, rfl, hwrite⟩, _, mutate_of_mayMutate hmay _, rfl, hjump⟩

end Sys2Proof.Proofs
